-- ==== Sys2Proof/Word.lean ====
section
/-! DEFINITION. The word types of the codec: the byte of the wire and the widths of the message fields
(00_scope.md R7 to R9, 10_state.md R24). All values are unsigned. -/

namespace Sys2Proof

/-- A byte, bit 0 least significant (R7). -/
abbrev Byte := BitVec 8

/-- Half a byte, the width of the nibble fields (R7, R24). -/
abbrev Nibble := BitVec 4

/-- The width of the DID and of the path length (R24, R161). -/
abbrev Half := BitVec 16

/-- The width of the variable-width value fields, the largest legal one (R24). -/
abbrev Word := BitVec 32

/-- `PLEN_BITS`, the width of the declared payload length (R6, decision D2;
DESIGN CHOICE, notes/assumptions/17.md). -/
abbrev plenBits : Nat := 32

/-- A length register: PLEN, L, RPOS and the lengths of ERR (R30, R33, R34, R37). -/
abbrev Len := BitVec plenBits

/-- A byte string, first byte first (R8). -/
abbrev Bytes := List Byte

end Sys2Proof
end

