-- ==== Sys2Proof/Config.lean ====
section
/-! DEFINITION. What is fixed before the first command: the closed sets of names (kinds, families,
directions), the shape and value language of the Codec Engine in which the two DTC tables are written,
the parameters of 00_scope.md R6, and the free values (constants without a body) that stand wherever the
spec leaves a value open. -/

namespace Sys2Proof

/-- The 16 message kinds (R3). -/
inductive Kind where
  | readDidReq | readDidRsp | writeDidReq | writeDidRsp
  | readDtcReq | readDtcRsp
  | requestDownloadReq | requestDownloadRsp
  | fileTransferReq | fileTransferRsp
  | transferDataReq | transferDataRsp
  | transferExitReq | transferExitRsp
  | negativeResponse | raw
deriving DecidableEq, Repr

/-- The nine families (R14). -/
inductive Family where
  | readDid | writeDid | readDtc | requestDownload | fileTransfer
  | transferData | transferExit | negativeResponse | raw
deriving DecidableEq, Repr

/-- The direction of a message, bit 6 of its SID (R14, R35). -/
inductive Dir where
  | request | response
deriving DecidableEq, Repr

mutual
/-- A layout of the Codec Engine (40_codec_engine.md R120). -/
inductive Shape where
  | u8 | u16 | u32
  /-- A variant that carries nothing. -/
  | unit
  /-- Fields in declaration order. -/
  | record (fields : Entries)
  /-- Variants in declaration order, selected by a one-byte index. -/
  | union (variants : Entries)
  /-- Homogeneous repetition without a count. -/
  | seq (element : Shape)
  /-- Any primitive or compound the engine does not support (R128). -/
  | unsupported (what : String)
deriving DecidableEq, Repr
/-- An ordered list of (name, shape) pairs: the fields of a record, the variants of a union (R120). -/
inductive Entries where
  | nil
  | cons (name : String) (shape : Shape) (rest : Entries)
deriving DecidableEq, Repr
end

mutual
/-- A value of the Codec Engine (R121); integers are unsigned and carry their width. -/
inductive Val where
  | u8 (v : Byte) | u16 (v : Half) | u32 (v : Word)
  | unit
  | record (fields : Vals)
  | variant (index : Byte) (value : Val)
  | seq (elements : Vals)
  /-- The placeholder that can be given where the shape is unsupported (R121). -/
  | placeholder
deriving DecidableEq, Repr
/-- A list of values: the fields of a record, the elements of a sequence. -/
inductive Vals where
  | nil
  | cons (value : Val) (rest : Vals)
deriving DecidableEq, Repr
end

/-- A table as an ordinary list of pairs, turned into entries. -/
def Entries.ofList : List (String × Shape) → Entries
  | [] => .nil
  | e :: rest => .cons e.1 e.2 (Entries.ofList rest)

/-- The entry at an index, 0-based (R124). -/
def Entries.get? : Entries → Nat → Option (String × Shape)
  | .nil, _ => none
  | .cons name shape _, 0 => some (name, shape)
  | .cons _ _ rest, n + 1 => rest.get? n

/-- How many entries there are. -/
def Entries.length : Entries → Nat
  | .nil => 0
  | .cons _ _ rest => rest.length + 1

/-- A list of values as an ordinary list, turned into `Vals`. -/
def Vals.ofList : List Val → Vals
  | [] => .nil
  | v :: rest => .cons v (Vals.ofList rest)

/-- Treatment of the low nibble of the RequestDownload.rsp descriptor on decode (R6, R223). -/
inductive LowNibble where
  | ignore | reject
deriving DecidableEq, Repr

/-- The parameters of 00_scope.md R6 other than `PLEN_BITS`. They are configuration: no step changes them. -/
structure Params where
  /-- `DTC_REQ_TABLE` (R211). -/
  dtcReqTable : Entries
  /-- `DTC_RSP_TABLE` (R212). -/
  dtcRspTable : Entries
  /-- `RFT_DELETE_HAS_METHOD` (R232). -/
  rftDeleteHasMethod : Bool
  /-- `RFT_READ_HAS_SIZE` (R232). -/
  rftReadHasSize : Bool
  /-- `RD_RSP_LOW_NIBBLE` (R223). -/
  rdRspLowNibble : LowNibble
  /-- `SNK_CAP`; `none` is unbounded (R55). -/
  snkCap : Option Nat
  /-- `MAX_ALLOC`; `none` is unbounded (R58). -/
  maxAlloc : Option Nat
deriving DecidableEq, Repr

namespace Config

/-- The example table `T_ex` of 95_test_vectors.md section 2.2, an instantiation that meets R211 and R132 and
is not the software's table (DESIGN CHOICE, notes/assumptions/3.md). -/
def exampleTable : Entries := Entries.ofList (
  [("V0", .unit),
   ("ByMask", .record (.ofList [("mask", .u8)])),
   ("ByDtc", .record (.ofList [("hi", .u8), ("mid", .u8), ("lo", .u8), ("rec", .u8)])),
   ("Words", .seq .u16),
   ("Big", .u32),
   ("Bad", .unsupported "f32"),
   ("MaskThenList", .record (.ofList [("mask", .u8),
      ("items", .seq (.record (.ofList [("a", .u16), ("b", .u8)])))]))] ++
  [("V7", .unit), ("V8", .unit), ("V9", .unit), ("ReportSupportedDTC", .unit),
   ("V11", .unit), ("V12", .unit), ("V13", .unit), ("V14", .unit), ("V15", .unit),
   ("V16", .unit), ("V17", .unit), ("V18", .unit), ("V19", .unit), ("V20", .unit)])

/-- The defaults of R6; the two tables, which have no default, are instantiated with `exampleTable`
(DESIGN CHOICE, notes/assumptions/3.md). -/
def defaults : Params :=
  { dtcReqTable := exampleTable
    dtcRspTable := exampleTable
    rftDeleteHasMethod := true
    rftReadHasSize := true
    rdRspLowNibble := .ignore
    snkCap := none
    maxAlloc := none }

/-- Free value: where between its bounds the source stands after a DECODE that faults, and how long a part of
what it had written a failed ENCODE leaves in the sink (R69, R70; DESIGN CHOICE, notes/assumptions/5.md, 6.md). -/
opaque freeCount : Nat → Nat

/-- Free value: the text of an EncodingError (R264; DESIGN CHOICE,
notes/assumptions/7.md). -/
opaque freeText : Nat → String

/-- Free value: whether a RequestFileTransfer mode outside 1 to 5 counts as carrying the method byte; only
LENGTH of a message that ENCODE rejects meets it (R184, R232; DESIGN CHOICE, notes/assumptions/9.md). -/
opaque freeHasMethod : Byte → Bool

/-- Free value: the same for the size group (R184, R232; DESIGN CHOICE, notes/assumptions/9.md). -/
opaque freeHasSize : Byte → Bool

/-- Free value: the engine length of a value where R129 has no row for it, an unsupported shape or a value that
is not of the shape; only LENGTH of a message that ENCODE rejects meets it (DESIGN CHOICE,
notes/assumptions/9.md). -/
opaque freeEngineLen : Shape → Val → Nat

end Config

end Sys2Proof
end

