-- ==== Sys2Proof/Syntax.lean ====
section
/-! DEFINITION. The instructions: one constructor per row of spec/opcode_table.json. An instruction is a message
on the wire (00_scope.md section 2, 30_encoding.md R80): the SID, with the sub-opcode byte where the row fixes one,
is its opcode, and the bytes after it are its operand, the immediates. The operand is kept byte for byte, because a
mapped SID with invalid contents is still that instruction: it faults when it runs, it is not another one (R253). -/

namespace Sys2Proof

/-- One constructor per row of the opcode table. `payload` is every byte after the SID that the source delivers
within PLEN; `rest` is every such byte after the sub-opcode byte. A sub-opcode row refines its kind row (R109). -/
inductive Instr where
  /-- SID 0x22 (R200). -/
  | readDidReq (payload : Bytes)
  /-- SID 0x62 (R201). -/
  | readDidRsp (payload : Bytes)
  /-- SID 0x2E (R202). -/
  | writeDidReq (payload : Bytes)
  /-- SID 0x6E (R203). -/
  | writeDidRsp (payload : Bytes)
  /-- SID 0x19 with any payload that does not begin with 0x0A (R214). -/
  | readDtcReq (payload : Bytes)
  /-- SID 0x59 (R215). -/
  | readDtcRsp (payload : Bytes)
  /-- SID 0x19, variant index 0x0A (R211, R214). -/
  | readDtcReqReportSupported (rest : Bytes)
  /-- SID 0x34 (R220). -/
  | requestDownloadReq (payload : Bytes)
  /-- SID 0x74 (R222). -/
  | requestDownloadRsp (payload : Bytes)
  /-- SID 0x38 with no mode byte or one outside 1 to 5 (R230). -/
  | fileTransferReq (payload : Bytes)
  /-- SID 0x78 with no mode byte or one outside 1 to 5 (R231). -/
  | fileTransferRsp (payload : Bytes)
  /-- SID 0x38, mode 0x01 (R230, R95). -/
  | fileTransferReqAdd (rest : Bytes)
  /-- SID 0x38, mode 0x02. -/
  | fileTransferReqDelete (rest : Bytes)
  /-- SID 0x38, mode 0x03. -/
  | fileTransferReqReplace (rest : Bytes)
  /-- SID 0x38, mode 0x04. -/
  | fileTransferReqReadFile (rest : Bytes)
  /-- SID 0x38, mode 0x05. -/
  | fileTransferReqReadDir (rest : Bytes)
  /-- SID 0x78, mode 0x01 (R231, R95). -/
  | fileTransferRspAdd (rest : Bytes)
  /-- SID 0x78, mode 0x02. -/
  | fileTransferRspDelete (rest : Bytes)
  /-- SID 0x78, mode 0x03. -/
  | fileTransferRspReplace (rest : Bytes)
  /-- SID 0x78, mode 0x04. -/
  | fileTransferRspReadFile (rest : Bytes)
  /-- SID 0x78, mode 0x05. -/
  | fileTransferRspReadDir (rest : Bytes)
  /-- SID 0x36 (R240). -/
  | transferDataReq (payload : Bytes)
  /-- SID 0x76 (R241). -/
  | transferDataRsp (payload : Bytes)
  /-- SID 0x37 (R242). -/
  | transferExitReq (payload : Bytes)
  /-- SID 0x77 (R243). -/
  | transferExitRsp (payload : Bytes)
  /-- SID 0x7F (R250). -/
  | negativeResponse (payload : Bytes)
  /-- Any of the 241 unmapped SIDs (R252). -/
  | raw (sid : Byte) (payload : Bytes)
deriving DecidableEq, Repr

end Sys2Proof
end

