-- ==== Sys2Proof/WellFormed.lean ====
section
/-! DEFINITION. When an instruction is well-formed: it is the one the opcode table gives for its own bytes, so
that no two well-formed instructions have the same bytes (30_encoding.md R82, R103, R109). -/

namespace Sys2Proof

/-- The 15 mapped SIDs, the two SID columns of the table of R83. -/
def mappedSids : List Byte :=
  [0x22, 0x62, 0x2E, 0x6E, 0x19, 0x59, 0x34, 0x74, 0x38, 0x78, 0x36, 0x76, 0x37, 0x77, 0x7F]

/-- The payload begins with the variant index of ReportSupportedDTC, so the sub-opcode row of R211 has it. -/
def startsReportSupported : Bytes → Bool
  | [] => false
  | index :: _ => index == 0x0A

/-- The payload begins with one of the five modes of R95, so a mode row has it. -/
def startsLegalMode : Bytes → Bool
  | [] => false
  | mode :: _ => decide (1 ≤ mode.toNat ∧ mode.toNat ≤ 5)

/-- An instruction is well-formed when it is the most specific row for its bytes (R109): a Raw has an unmapped
SID, and a kind row with sub-opcode rows under it has none of their sub-opcodes. -/
def Instr.wf : Instr → Bool
  | .readDidReq _ => true
  | .readDidRsp _ => true
  | .writeDidReq _ => true
  | .writeDidRsp _ => true
  | .readDtcReq payload => !startsReportSupported payload
  | .readDtcRsp _ => true
  | .readDtcReqReportSupported _ => true
  | .requestDownloadReq _ => true
  | .requestDownloadRsp _ => true
  | .fileTransferReq payload => !startsLegalMode payload
  | .fileTransferRsp payload => !startsLegalMode payload
  | .fileTransferReqAdd _ => true
  | .fileTransferReqDelete _ => true
  | .fileTransferReqReplace _ => true
  | .fileTransferReqReadFile _ => true
  | .fileTransferReqReadDir _ => true
  | .fileTransferRspAdd _ => true
  | .fileTransferRspDelete _ => true
  | .fileTransferRspReplace _ => true
  | .fileTransferRspReadFile _ => true
  | .fileTransferRspReadDir _ => true
  | .transferDataReq _ => true
  | .transferDataRsp _ => true
  | .transferExitReq _ => true
  | .transferExitRsp _ => true
  | .negativeResponse _ => true
  | .raw sid _ => decide (sid ∉ mappedSids)

end Sys2Proof
end

