-- ==== Sys2Proof/Decode.lean ====
section
/-! DEFINITION. The decoder: from the bytes of a message to the instruction they are, by SID direction, base SID
and the SID table (30_encoding.md R81 to R84, 42_dispatch_framing.md R172 to R174), and the encoder back. The
contents of the operand are judged by the payload codecs when the instruction runs. -/

namespace Sys2Proof

/-- Why bytes are no instruction at all. -/
inductive DecodeReject where
  /-- There is no SID byte: "Read 1 byte (SID); absence → Io failure" (R172 step 1). -/
  | noSid
deriving DecidableEq, Repr

/-- `DIR`: bit 6 of the SID (R173). -/
def dirOf (sid : Byte) : Dir :=
  if sid &&& 0x40 = 0x40 then .response else .request

/-- The base SID: bit 6 cleared (R81, R173). -/
def baseOf (sid : Byte) : Byte :=
  sid &&& 0xBF

/-- `SID_TABLE`, keyed on the base SID and the direction (R82, R83; 90_conflicts.md C10). -/
def sidTable : List ((Byte × Dir) × Family) :=
  [((0x22, .request), .readDid), ((0x22, .response), .readDid),
   ((0x2E, .request), .writeDid), ((0x2E, .response), .writeDid),
   ((0x19, .request), .readDtc), ((0x19, .response), .readDtc),
   ((0x34, .request), .requestDownload), ((0x34, .response), .requestDownload),
   ((0x38, .request), .fileTransfer), ((0x38, .response), .fileTransfer),
   ((0x36, .request), .transferData), ((0x36, .response), .transferData),
   ((0x37, .request), .transferExit), ((0x37, .response), .transferExit),
   ((0x3F, .response), .negativeResponse)]

/-- The lookup of R82: the family of a (base, direction) pair, Raw when the table has no entry. It never fails. -/
def familyOf (base : Byte) (dir : Dir) : Family :=
  (sidTable.lookup (base, dir)).getD .raw

/-- `Kind(FAM, DIR)` (R174). -/
def kindOf : Family → Dir → Kind
  | .readDid, .request => .readDidReq
  | .readDid, .response => .readDidRsp
  | .writeDid, .request => .writeDidReq
  | .writeDid, .response => .writeDidRsp
  | .readDtc, .request => .readDtcReq
  | .readDtc, .response => .readDtcRsp
  | .requestDownload, .request => .requestDownloadReq
  | .requestDownload, .response => .requestDownloadRsp
  | .fileTransfer, .request => .fileTransferReq
  | .fileTransfer, .response => .fileTransferRsp
  | .transferData, .request => .transferDataReq
  | .transferData, .response => .transferDataRsp
  | .transferExit, .request => .transferExitReq
  | .transferExit, .response => .transferExitRsp
  | .negativeResponse, _ => .negativeResponse
  | .raw, _ => .raw

/-- The kind a SID byte selects (R172 steps 2 and 3). -/
def kindOfSid (sid : Byte) : Kind :=
  kindOf (familyOf (baseOf sid) (dirOf sid)) (dirOf sid)

/-- The row of a ReadDTCInformation.req payload: the ReportSupportedDTC row or the kind row (R109, R211). -/
def refineDtcReq : Bytes → Instr
  | [] => .readDtcReq []
  | index :: rest => if index = 0x0A then .readDtcReqReportSupported rest else .readDtcReq (index :: rest)

/-- The row of a RequestFileTransfer.req payload: a mode row or the kind row (R95, R109). -/
def refineFileTransferReq : Bytes → Instr
  | [] => .fileTransferReq []
  | mode :: rest =>
    if mode = 1 then .fileTransferReqAdd rest
    else if mode = 2 then .fileTransferReqDelete rest
    else if mode = 3 then .fileTransferReqReplace rest
    else if mode = 4 then .fileTransferReqReadFile rest
    else if mode = 5 then .fileTransferReqReadDir rest
    else .fileTransferReq (mode :: rest)

/-- The row of a RequestFileTransfer.rsp payload (R95, R109). -/
def refineFileTransferRsp : Bytes → Instr
  | [] => .fileTransferRsp []
  | mode :: rest =>
    if mode = 1 then .fileTransferRspAdd rest
    else if mode = 2 then .fileTransferRspDelete rest
    else if mode = 3 then .fileTransferRspReplace rest
    else if mode = 4 then .fileTransferRspReadFile rest
    else if mode = 5 then .fileTransferRspReadDir rest
    else .fileTransferRsp (mode :: rest)

/-- The instruction of a SID byte and the bytes after it. -/
def instrOf (sid : Byte) (payload : Bytes) : Instr :=
  match kindOfSid sid with
  | .readDidReq => .readDidReq payload
  | .readDidRsp => .readDidRsp payload
  | .writeDidReq => .writeDidReq payload
  | .writeDidRsp => .writeDidRsp payload
  | .readDtcReq => refineDtcReq payload
  | .readDtcRsp => .readDtcRsp payload
  | .requestDownloadReq => .requestDownloadReq payload
  | .requestDownloadRsp => .requestDownloadRsp payload
  | .fileTransferReq => refineFileTransferReq payload
  | .fileTransferRsp => refineFileTransferRsp payload
  | .transferDataReq => .transferDataReq payload
  | .transferDataRsp => .transferDataRsp payload
  | .transferExitReq => .transferExitReq payload
  | .transferExitRsp => .transferExitRsp payload
  | .negativeResponse => .negativeResponse payload
  | .raw => .raw sid payload

/-- The decoder, total on any byte string: a message is its SID and the bytes after it (R80). -/
def decode : Bytes → Except DecodeReject Instr
  | [] => .error .noSid
  | sid :: payload => .ok (instrOf sid payload)

/-- The SID byte of a kind; Raw has none of its own (R179). -/
def sidOf : Kind → Option Byte
  | .readDidReq => some 0x22
  | .readDidRsp => some 0x62
  | .writeDidReq => some 0x2E
  | .writeDidRsp => some 0x6E
  | .readDtcReq => some 0x19
  | .readDtcRsp => some 0x59
  | .requestDownloadReq => some 0x34
  | .requestDownloadRsp => some 0x74
  | .fileTransferReq => some 0x38
  | .fileTransferRsp => some 0x78
  | .transferDataReq => some 0x36
  | .transferDataRsp => some 0x76
  | .transferExitReq => some 0x37
  | .transferExitRsp => some 0x77
  | .negativeResponse => some 0x7F
  | .raw => none

/-- The kind of an instruction, the row its own row refines (R109). -/
def Instr.kind : Instr → Kind
  | .readDidReq _ => .readDidReq
  | .readDidRsp _ => .readDidRsp
  | .writeDidReq _ => .writeDidReq
  | .writeDidRsp _ => .writeDidRsp
  | .readDtcReq _ => .readDtcReq
  | .readDtcRsp _ => .readDtcRsp
  | .readDtcReqReportSupported _ => .readDtcReq
  | .requestDownloadReq _ => .requestDownloadReq
  | .requestDownloadRsp _ => .requestDownloadRsp
  | .fileTransferReq _ => .fileTransferReq
  | .fileTransferRsp _ => .fileTransferRsp
  | .fileTransferReqAdd _ => .fileTransferReq
  | .fileTransferReqDelete _ => .fileTransferReq
  | .fileTransferReqReplace _ => .fileTransferReq
  | .fileTransferReqReadFile _ => .fileTransferReq
  | .fileTransferReqReadDir _ => .fileTransferReq
  | .fileTransferRspAdd _ => .fileTransferRsp
  | .fileTransferRspDelete _ => .fileTransferRsp
  | .fileTransferRspReplace _ => .fileTransferRsp
  | .fileTransferRspReadFile _ => .fileTransferRsp
  | .fileTransferRspReadDir _ => .fileTransferRsp
  | .transferDataReq _ => .transferDataReq
  | .transferDataRsp _ => .transferDataRsp
  | .transferExitReq _ => .transferExitReq
  | .transferExitRsp _ => .transferExitRsp
  | .negativeResponse _ => .negativeResponse
  | .raw _ _ => .raw

/-- The bytes after the SID, the sub-opcode byte of a sub-opcode row among them. -/
def Instr.payload : Instr → Bytes
  | .readDidReq payload => payload
  | .readDidRsp payload => payload
  | .writeDidReq payload => payload
  | .writeDidRsp payload => payload
  | .readDtcReq payload => payload
  | .readDtcRsp payload => payload
  | .readDtcReqReportSupported rest => 0x0A :: rest
  | .requestDownloadReq payload => payload
  | .requestDownloadRsp payload => payload
  | .fileTransferReq payload => payload
  | .fileTransferRsp payload => payload
  | .fileTransferReqAdd rest => 1 :: rest
  | .fileTransferReqDelete rest => 2 :: rest
  | .fileTransferReqReplace rest => 3 :: rest
  | .fileTransferReqReadFile rest => 4 :: rest
  | .fileTransferReqReadDir rest => 5 :: rest
  | .fileTransferRspAdd rest => 1 :: rest
  | .fileTransferRspDelete rest => 2 :: rest
  | .fileTransferRspReplace rest => 3 :: rest
  | .fileTransferRspReadFile rest => 4 :: rest
  | .fileTransferRspReadDir rest => 5 :: rest
  | .transferDataReq payload => payload
  | .transferDataRsp payload => payload
  | .transferExitReq payload => payload
  | .transferExitRsp payload => payload
  | .negativeResponse payload => payload
  | .raw _ payload => payload

/-- The SID byte of an instruction, the SID column of R84; a Raw carries its own (R100). -/
def Instr.sid : Instr → Byte
  | .readDidReq _ => 0x22
  | .readDidRsp _ => 0x62
  | .writeDidReq _ => 0x2E
  | .writeDidRsp _ => 0x6E
  | .readDtcReq _ => 0x19
  | .readDtcRsp _ => 0x59
  | .readDtcReqReportSupported _ => 0x19
  | .requestDownloadReq _ => 0x34
  | .requestDownloadRsp _ => 0x74
  | .fileTransferReq _ => 0x38
  | .fileTransferRsp _ => 0x78
  | .fileTransferReqAdd _ => 0x38
  | .fileTransferReqDelete _ => 0x38
  | .fileTransferReqReplace _ => 0x38
  | .fileTransferReqReadFile _ => 0x38
  | .fileTransferReqReadDir _ => 0x38
  | .fileTransferRspAdd _ => 0x78
  | .fileTransferRspDelete _ => 0x78
  | .fileTransferRspReplace _ => 0x78
  | .fileTransferRspReadFile _ => 0x78
  | .fileTransferRspReadDir _ => 0x78
  | .transferDataReq _ => 0x36
  | .transferDataRsp _ => 0x76
  | .transferExitReq _ => 0x37
  | .transferExitRsp _ => 0x77
  | .negativeResponse _ => 0x7F
  | .raw sid _ => sid

/-- The encoder: the bytes of an instruction, SID first (R80, R86 to R100). -/
def encode (i : Instr) : Bytes :=
  i.sid :: i.payload

/-! The table's own words, for `decodeTableWord` and `withFetchWord`. -/

/-- The bytes of a word of `spec/opcode_table.json`: the SID is the MORE significant byte of a two-byte word
(R109: "`0x190A` is SID 0x19 then index 0x0A"; DEDUCED,
notes/assumptions/12.md). -/
def tableBytes (nbits w : Nat) : Bytes :=
  if nbits ≤ 8 then [BitVec.ofNat 8 w] else [BitVec.ofNat 8 (w / 256), BitVec.ofNat 8 w]

/-- How many bytes a row's instruction has when every operand byte is zero: its shortest legal length where zeros
are legal, else its shortest legal length under the smallest widths (R84; DESIGN CHOICE,
notes/assumptions/12.md). -/
def Instr.tableLength : Instr → Nat
  | .readDidReq _ => 3
  | .readDidRsp _ => 3
  | .writeDidReq _ => 3
  | .writeDidRsp _ => 3
  | .readDtcReq _ => 2
  | .readDtcRsp _ => 2
  | .readDtcReqReportSupported _ => 2
  | .requestDownloadReq _ => 5
  | .requestDownloadRsp _ => 3
  | .fileTransferReq _ => 4
  | .fileTransferRsp _ => 4
  | .fileTransferReqAdd _ => 8
  | .fileTransferReqDelete _ => 5
  | .fileTransferReqReplace _ => 8
  | .fileTransferReqReadFile _ => 7
  | .fileTransferReqReadDir _ => 7
  | .fileTransferRspAdd _ => 8
  | .fileTransferRspDelete _ => 5
  | .fileTransferRspReplace _ => 8
  | .fileTransferRspReadFile _ => 7
  | .fileTransferRspReadDir _ => 7
  | .transferDataReq _ => 2
  | .transferDataRsp _ => 2
  | .transferExitReq _ => 1
  | .transferExitRsp _ => 1
  | .negativeResponse _ => 3
  | .raw _ _ => 1

/-- The whole message of a table word: the word's bytes, then zeros up to the row's length. -/
def tableMessage (nbits w : Nat) : Bytes :=
  let opcode := tableBytes nbits w
  let length := match decode opcode with
    | .ok i => i.tableLength
    | .error _ => 1
  opcode ++ List.replicate (length - opcode.length) 0

/-- The instruction the decoder reads from a table word, every bit above `nbits` zero. -/
def decodeTableWord (nbits w : Nat) : Option Instr :=
  match decode (tableMessage nbits w) with
  | .ok i => some i
  | .error _ => none

end Sys2Proof
end

