-- ==== Sys2Proof/Machine/Message.lean ====
section
/-! DEFINITION. The message value model: the tagged union a message register holds, the fields of each kind with
their widths (10_state.md R23, R24), and the default value of each kind (R29). -/

namespace Sys2Proof.Machine

/-- The fields of RequestFileTransfer, the same in both directions (R24, R231). -/
structure FileTransfer where
  mode : Byte
  path : Bytes
  compression : Nibble
  encryption : Nibble
  fsizeBytes : Byte
  sizeUncompressed : Word
  sizeCompressed : Word
deriving DecidableEq, Repr

/-- The fields of RequestDownload.req (R24). -/
structure Download where
  compression : Nibble
  encryption : Nibble
  addrBytes : Nibble
  sizeBytes : Nibble
  address : Word
  size : Word
deriving DecidableEq, Repr

/-- A message: "Exactly one variant active at a time" (R23, R24). A message the host builds may be ill-formed. -/
inductive Message where
  | readDidReq (did : Half)
  | readDidRsp (did : Half) (data : Bytes)
  | writeDidReq (did : Half) (data : Bytes)
  | writeDidRsp (did : Half)
  | readDtcReq (sub : Val)
  | readDtcRsp (sub : Val)
  | requestDownloadReq (fields : Download)
  | requestDownloadRsp (blockBytes : Nibble) (maxBlockSize : Word)
  | fileTransferReq (fields : FileTransfer)
  | fileTransferRsp (fields : FileTransfer)
  | transferDataReq (seq : Byte) (data : Bytes)
  | transferDataRsp (seq : Byte)
  | transferExitReq (data : Bytes)
  | transferExitRsp (data : Bytes)
  | negativeResponse (faultedSid code : Byte)
  /-- The whole message, SID first (R28). -/
  | raw (bytes : Bytes)
deriving DecidableEq, Repr

/-- `MSG.kind`, the tag (R23). -/
def Message.kind : Message → Kind
  | .readDidReq _ => .readDidReq
  | .readDidRsp _ _ => .readDidRsp
  | .writeDidReq _ _ => .writeDidReq
  | .writeDidRsp _ => .writeDidRsp
  | .readDtcReq _ => .readDtcReq
  | .readDtcRsp _ => .readDtcRsp
  | .requestDownloadReq _ => .requestDownloadReq
  | .requestDownloadRsp _ _ => .requestDownloadRsp
  | .fileTransferReq _ => .fileTransferReq
  | .fileTransferRsp _ => .fileTransferRsp
  | .transferDataReq _ _ => .transferDataReq
  | .transferDataRsp _ => .transferDataRsp
  | .transferExitReq _ => .transferExitReq
  | .transferExitRsp _ => .transferExitRsp
  | .negativeResponse _ _ => .negativeResponse
  | .raw _ => .raw

mutual
/-- The default value of a shape: scalars 0, sequences empty, a union its variant 0 (R29, decision D25). -/
def shapeDefault : Shape → Val
  | .u8 => .u8 0
  | .u16 => .u16 0
  | .u32 => .u32 0
  | .unit => .unit
  | .record fields => .record (fieldDefaults fields)
  | .union variants => .variant 0 (firstDefault variants)
  | .seq _ => .seq .nil
  | .unsupported _ => .placeholder
/-- The default value of each field of a record. -/
def fieldDefaults : Entries → Vals
  | .nil => .nil
  | .cons _ shape rest => .cons (shapeDefault shape) (fieldDefaults rest)
/-- The default value of variant 0 of a union. -/
def firstDefault : Entries → Val
  | .nil => .placeholder
  | .cons _ shape _ => shapeDefault shape
end

/-- The default RequestFileTransfer fields: every scalar 0, the path empty (R29). -/
def fileTransferDefault : FileTransfer :=
  { mode := 0, path := [], compression := 0, encryption := 0, fsizeBytes := 0,
    sizeUncompressed := 0, sizeCompressed := 0 }

/-- The default RequestDownload.req fields (R29). -/
def downloadDefault : Download :=
  { compression := 0, encryption := 0, addrBytes := 0, sizeBytes := 0, address := 0, size := 0 }

/-- "Instantiate a default payload of the resolved family" (R172 step 4): every scalar 0, every byte string empty,
for the DTC kinds the variant of index 0 with its default value (R29). -/
def messageDefault (c : Params) : Kind → Message
  | .readDidReq => .readDidReq 0
  | .readDidRsp => .readDidRsp 0 []
  | .writeDidReq => .writeDidReq 0 []
  | .writeDidRsp => .writeDidRsp 0
  | .readDtcReq => .readDtcReq (shapeDefault (.union c.dtcReqTable))
  | .readDtcRsp => .readDtcRsp (shapeDefault (.union c.dtcRspTable))
  | .requestDownloadReq => .requestDownloadReq downloadDefault
  | .requestDownloadRsp => .requestDownloadRsp 0 0
  | .fileTransferReq => .fileTransferReq fileTransferDefault
  | .fileTransferRsp => .fileTransferRsp fileTransferDefault
  | .transferDataReq => .transferDataReq 0 []
  | .transferDataRsp => .transferDataRsp 0
  | .transferExitReq => .transferExitReq []
  | .transferExitRsp => .transferExitRsp []
  | .negativeResponse => .negativeResponse 0 0
  | .raw => .raw []

end Sys2Proof.Machine
end

