-- ==== Sys2Proof/Machine/State.lean ====
section
/-! DEFINITION. The state of one instance of the codec (10_state.md R21) as plain data, the reasons a step of the
model can stop, and the state after reset (70_reset_and_hazards.md R300). -/

namespace Sys2Proof.Machine

/-- `CMD`: the four host commands (R32, R170). They have no numeric encoding. -/
inductive Cmd where
  | decode | encode | upgrade | length
deriving DecidableEq, Repr

/-- `STATUS`: the outcome of the last command (R39). -/
inductive Status where
  | ok | fault
deriving DecidableEq, Repr

/-- `PHASE`: where the dispatch state machine stands (R31). -/
inductive Phase where
  | idle | sid | direction | resolve | default | payload | done | fault
deriving DecidableEq, Repr

/-- `ERR.kind`: the closed list of four fault kinds (R260). -/
inductive ErrKind where
  | io | payloadLengthTooShort | unexpectedPayloadType | encodingError
deriving DecidableEq, Repr

/-- The fault codes of R260, 1 to 4; nothing depends on them (decision D24). -/
def ErrKind.code : ErrKind → Nat
  | .io => 1
  | .payloadLengthTooShort => 2
  | .unexpectedPayloadType => 3
  | .encodingError => 4

/-- `ERR.cause`: the Codec Engine failure behind a fault (R37, R265). -/
inductive Cause where
  | none | insufficientData | protocolMismatch
deriving DecidableEq, Repr

/-- `ERR`: the fault record (R37); a field a kind does not use holds nothing. -/
structure ErrRecord where
  kind : ErrKind
  cause : Cause
  /-- The length that was judged, or the offending width. -/
  value : Option Len
  /-- The required length. -/
  expected : Option Len
  /-- The text of an EncodingError; never compared (R264). -/
  msg : Option String
deriving DecidableEq, Repr

/-- `SRC`: every byte the host supplies, and how many of them have been taken when a command starts or has
ended (R50). Within a DECODE the cursor is `pos + RPOS`. A reader that fails or never delivers is one that ends
(R51, R275; DESIGN CHOICE, notes/assumptions/16.md). -/
structure Source where
  bytes : Bytes
  pos : Nat
deriving DecidableEq, Repr

/-- A move of the host, the other agent (R20): what it does between commands, and the start of a command with the
inputs it loads for it. MODEL'S OWN: the spec gives the host no form (DESIGN CHOICE,
notes/assumptions/4.md). -/
inductive HostMove where
  /-- The host supplies a source, positioned at its first byte (R310 (1)). -/
  | loadSource (bytes : Bytes)
  /-- The host repositions the source from its own framing (R317). -/
  | seekSource (pos : Nat)
  /-- The host supplies a sink, which may already hold bytes (R14, R20, R310 (5)). -/
  | loadSink (bytes : Bytes)
  /-- The host drains the sink: it takes the oldest `count` bytes (R53). -/
  | drainSink (count : Nat)
  /-- The host cuts the sink back to its first `keep` bytes (R317). -/
  | cutSink (keep : Nat)
  /-- The host loads CMD = DECODE and PLEN and starts the command. -/
  | decode (plen : Len)
  /-- The host loads CMD = ENCODE and MSG and starts the command. -/
  | encode (message : Message)
  /-- The host loads CMD = UPGRADE and MSG and starts the command. -/
  | upgrade (message : Message)
  /-- The host loads CMD = LENGTH and MSG and starts the command. -/
  | length (message : Message)
deriving DecidableEq, Repr

/-- The state of one instance (R21), the parameters it was given (R6), and three fields of the model's own. -/
structure State where
  /-- `CMD`, none while no command has been selected (R32, R300). -/
  cmd : Option Cmd
  /-- `PLEN`, the declared payload length, the SID counted (R33). -/
  plen : Len
  /-- `SRC` (R50). -/
  src : Source
  /-- `SNK`, a byte string that the host supplies and drains, and that commands only append to (R53). -/
  snk : Bytes
  /-- `MSG`, none while unwritten (R23, R26). -/
  msg : Option Message
  /-- The message argument the host supplied with ENCODE, UPGRADE or LENGTH, none for DECODE: the host's own message,
  which no fault touches (R26, R178, R270; DEDUCED, notes/assumptions/13.md). -/
  arg : Option Message
  /-- `ERR`, none while empty (R37). -/
  err : Option ErrRecord
  /-- `STATUS` (R39). -/
  status : Status
  /-- `RPOS`, bytes the command has consumed (R30). -/
  rpos : Len
  /-- `PHASE` (R31). -/
  phase : Phase
  /-- `DIR` (R35). -/
  dir : Dir
  /-- `FAM` (R36). -/
  fam : Family
  /-- `L`, the length handed to the payload codec (R34). -/
  l : Len
  /-- `BUF`, the staging buffer of the DTC decoders (R41). -/
  buf : Bytes
  /-- The number LENGTH returns (R170, R184). MODEL'S OWN: R21 has no element for it
  (DESIGN CHOICE, notes/assumptions/8.md). -/
  lengthOut : Option Nat
  /-- The parameters of R6. Configuration: no step changes them (R300). -/
  params : Params
  /-- What the host does next, oldest first. MODEL'S OWN (notes/assumptions/4.md). -/
  host : List HostMove
  /-- How many free values have been drawn. MODEL'S OWN (notes/assumptions/5.md). -/
  draws : Nat
deriving DecidableEq, Repr

/-- Why the machine stops with a fault. A fault of the CODEC is not one of these: the codec takes it and goes on
(R270). No step reaches one (DESIGN CHOICE, notes/assumptions/21.md). -/
inductive Fault where
  /-- `exec` runs ENCODE, UPGRADE or LENGTH while MSG holds no message. Raised by every meaning. Safe: R26 says a
  read of an unwritten MSG "reads nothing defined"; a command of the host loads MSG first, so no step reaches it. -/
  | messageUnwritten
  /-- `exec` runs ENCODE, UPGRADE or LENGTH with an instruction of another row than the message's. Raised by every
  meaning. Safe: R10 puts reading a field of another kind outside the spec; no step reaches it. -/
  | foreignMessage
deriving DecidableEq, Repr

/-- Why the model gives an instruction no result. -/
inductive Refusal where
  /-- An instruction that has no meaning yet. Raised by `exec` alone. Safe. -/
  | notModelled (mnemonic : String)
  /-- A trailing field longer than a `MAX_ALLOC` that is set (R58: "a model refuses the command rather than give it
  a result"). Raised by the decoders with a trailing field. Safe. -/
  | allocLimit
  /-- A DTC table that is not well-formed or does not meet R211 (R131, R132: a model "gives no meaning to a table
  that is not"). Raised by the DTC codecs. Safe. -/
  | tableIllFormed
deriving DecidableEq, Repr

/-- The machine right after reset (R300): no command, MSG unwritten, ERR empty, STATUS OK, PHASE IDLE. The streams
are empty because the host has supplied none; the registers R300 leaves unspecified are zero
(DESIGN CHOICE, notes/assumptions/2.md), the parameters are the defaults of R6 (DESIGN CHOICE,
notes/assumptions/3.md). -/
def State.reset : State :=
  { cmd := none
    plen := 0
    src := { bytes := [], pos := 0 }
    snk := []
    msg := none
    arg := none
    err := none
    status := .ok
    rpos := 0
    phase := .idle
    dir := .request
    fam := .raw
    l := 0
    buf := []
    lengthOut := none
    params := Config.defaults
    host := []
    draws := 0 }

end Sys2Proof.Machine
end

