-- ==== Sys2Proof/Machine/Ops.lean ====
section
/-! DEFINITION. The named operations over the two streams (20_memory.md R50 to R58), taking a fault as one shared
operation (60_exceptions.md R270) with the start of the next command beside it (R273), and how each of the four
commands ends (42_dispatch_framing.md R172 to R184). -/

namespace Sys2Proof.Machine

/-- A fault of the codec as the pseudocode raises it: its kind and what it records (R260, R261). -/
inductive CodecError where
  | io (cause : Cause)
  | payloadLengthTooShort (value expected : Nat)
  | unexpectedPayloadType (value : Nat)
  | encodingError (cause : Cause)
deriving DecidableEq, Repr

/-- How reading a payload ends: a value and the bytes not read; SrcRead ran out; a fault raised by a check, with the
bytes not read; or no result at all. -/
inductive ReadResult (α : Type) where
  | ok (value : α) (rest : Bytes)
  /-- SrcRead raised Io: the source ended inside a read (R52). -/
  | short (rest : Bytes)
  | fail (e : CodecError) (rest : Bytes)
  | refuse (r : Refusal)
deriving DecidableEq, Repr

/-- How writing a message ends, with the sink as the pseudocode leaves it. -/
inductive WriteResult where
  | ok (snk : Bytes)
  | fail (e : CodecError) (snk : Bytes)
  | refuse (r : Refusal)
deriving DecidableEq, Repr

/-! ### The byte source -/

/-- `MemRead(addr, n)`: up to `n` bytes of a stream from offset `addr` (R10). -/
def memRead (bytes : Bytes) (addr n : Nat) : Bytes :=
  (bytes.drop addr).take n

/-- `SrcRead(n)` on the bytes still to come, with what is done next (R52). It never faults for `n = 0`. -/
def srcRead {α : Type} (n : Nat) (bs : Bytes) (k : Bytes → Bytes → ReadResult α) : ReadResult α :=
  if bs.length < n then .short bs else k (bs.take n) (bs.drop n)

/-- `SrcRead(1)[0]`. -/
def readByte {α : Type} (bs : Bytes) (k : Byte → Bytes → ReadResult α) : ReadResult α :=
  srcRead 1 bs fun v rest => k (v.headD 0) rest

/-- Whether a trailing buffer of `n` bytes is more than the block can allocate (R58; DEDUCED,
notes/assumptions/14.md). -/
def overAlloc (c : Params) (n : Nat) : Bool :=
  match c.maxAlloc with
  | none => false
  | some most => decide (most < n)

/-- `ReadTrailing(n)`: one read into a buffer of exactly `n` bytes (R58, R158). -/
def readTrailing {α : Type} (c : Params) (n : Nat) (bs : Bytes) (k : Bytes → Bytes → ReadResult α) :
    ReadResult α :=
  if overAlloc c n then .refuse .allocLimit else srcRead n bs k

/-- The bytes of a source from where it stands. -/
def Source.remaining (src : Source) : Bytes :=
  src.bytes.drop src.pos

/-- The bytes a DECODE can be given: at most PLEN from where the source stands (R57, R176). -/
def State.window (s : State) : Bytes :=
  memRead s.src.bytes s.src.pos s.plen.toNat

/-! ### The byte sink -/

/-- Whether a write of `bs` fails: it would pass a capacity that is set (R54, R55); an empty write never does
(DEDUCED, notes/assumptions/19.md). -/
def overCap (c : Params) (snk bs : Bytes) : Bool :=
  match c.snkCap with
  | none => false
  | some cap => !bs.isEmpty && decide (cap < snk.length + bs.length)

/-- `MemWrite(len(SNK), len(bs), bs)`: the bytes are appended (R10, R54). -/
def memWrite (snk bs : Bytes) : Bytes :=
  snk ++ bs

/-- `SnkWrite(bs)`, with what is done next; a write that fails appends nothing (R54, R55). -/
def snkWrite (c : Params) (bs snk : Bytes) (k : Bytes → WriteResult) : WriteResult :=
  if overCap c snk bs then .fail (.io .none) snk else k (memWrite snk bs)

/-! ### The streams as cells: the two address spaces of R40, offset by offset (R62) -/

/-- A byte string as (offset, byte) cells from an offset on. -/
def streamCells : Nat → Bytes → List Host.Cell
  | _, [] => []
  | at_, b :: rest => (at_, b) :: streamCells (at_ + 1) rest

/-- The canonical form of cells: offsets strictly rising. An unlisted offset holds no byte (R50, R53). -/
def Memory.wf : List Host.Cell → Bool
  | [] => true
  | [_] => true
  | a :: b :: rest => decide (a.1 < b.1) && Memory.wf (b :: rest)

/-- The cells of the source. -/
def State.srcCells (s : State) : List Host.Cell := streamCells 0 s.src.bytes

/-- The cells of the sink. -/
def State.snkCells (s : State) : List Host.Cell := streamCells 0 s.snk

/-! ### Taking a fault, and the start of the next command -/

/-- A length as a length register holds it. -/
def toLen (n : Nat) : Len := BitVec.ofNat plenBits n

/-- The fault record of a fault (R37, R261); `text` is the message an EncodingError carries (R264). -/
def CodecError.record (text : String) : CodecError → ErrRecord
  | .io cause => { kind := .io, cause := cause, value := none, expected := none, msg := none }
  | .payloadLengthTooShort value expected =>
    { kind := .payloadLengthTooShort, cause := .none, value := some (toLen value),
      expected := some (toLen expected), msg := none }
  | .unexpectedPayloadType value =>
    { kind := .unexpectedPayloadType, cause := .none, value := some (toLen value), expected := none, msg := none }
  | .encodingError cause =>
    { kind := .encodingError, cause := cause, value := none, expected := none, msg := some text }

/-- `raise K(info)` (R270): STATUS becomes FAULT, ERR the record, MSG is unwritten (R26), PHASE passes FAULT and is
IDLE again. The host's message of an ENCODE stands untouched in `arg` (R270; DEDUCED, notes/assumptions/13.md). The
streams are the command's to settle. -/
def takeFault (e : CodecError) (s : State) : State :=
  { s with
    status := .fault
    err := some (e.record (Config.freeText s.draws))
    msg := none
    phase := .idle
    draws := s.draws + 1 }

/-- What every command does first (R273): CMD is the host's, STATUS and ERR are cleared, an earlier command's argument
is gone. No fault is sticky, so this is all the return from a fault there is. -/
def beginCommand (cmd : Cmd) (s : State) : State :=
  { s with cmd := some cmd, status := .ok, err := none, lengthOut := none, arg := none }

/-- A free point between two bounds, both included. -/
def drawBetween (low high draw : Nat) : Nat :=
  low + min draw (high - low)

/-- A DECODE fault raised by a check after `read` bytes: MSG is unwritten (R177) and the source stands anywhere from
there up to PLEN bytes on, or its end (R69): a free value (DESIGN CHOICE, notes/assumptions/5.md). -/
def failDecode (e : CodecError) (read : Nat) (s : State) : State :=
  takeFault e
    { s with
      rpos := toLen read
      src := { s.src with
        pos := drawBetween (s.src.pos + read) (s.src.pos + s.window.length) (Config.freeCount s.draws) } }

/-- A DECODE fault raised by SrcRead itself: the source is at its end (R69); RPOS counts the reads that succeeded
(DEDUCED, notes/assumptions/18.md). -/
def shortDecode (read : Nat) (s : State) : State :=
  takeFault (.io .none)
    { s with
      rpos := toLen read
      src := { s.src with pos := s.src.bytes.length } }

/-- A DECODE that succeeds (R172 step 6): MSG is the message, and the source stands `read` bytes on (R176, R57). -/
def finishDecode (m : Message) (read : Nat) (s : State) : State :=
  { s with
    msg := some m
    status := .ok
    err := none
    rpos := toLen read
    phase := .idle
    src := { s.src with pos := s.src.pos + read } }

/-- The end of a DECODE from what its payload decoder answered; the bytes consumed before the payload stand in RPOS. -/
def endDecode (r : ReadResult Message) (payload : Bytes) (s : State) : Host.Outcome State Fault Refusal :=
  match r with
  | .ok m rest => .next (finishDecode m (s.rpos.toNat + (payload.length - rest.length)) s)
  | .short rest => .next (shortDecode (s.rpos.toNat + (payload.length - rest.length)) s)
  | .fail e rest => .next (failDecode e (s.rpos.toNat + (payload.length - rest.length)) s)
  | .refuse reason => .refused reason

/-- An ENCODE that succeeds: the sink is as the writes left it (R178). -/
def finishEncode (snk : Bytes) (s : State) : State :=
  { s with snk := snk, status := .ok, err := none, phase := .idle }

/-- An ENCODE that faults: the sink holds what it held and some part, from its start, of what the rules had written
(R70). -/
def failEncode (e : CodecError) (written : Bytes) (s : State) : State :=
  takeFault e
    { s with snk := s.snk ++ (written.drop s.snk.length).take (Config.freeCount s.draws) }

/-- The end of an ENCODE from what its writes answered. -/
def endEncode (r : WriteResult) (s : State) : Host.Outcome State Fault Refusal :=
  match r with
  | .ok snk => .next (finishEncode snk s)
  | .fail e written => .next (failEncode e written s)
  | .refuse reason => .refused reason

/-- The end of an UPGRADE: MSG is the message it returns, STATUS is OK (R182, R39). -/
def finishUpgrade (m : Message) (s : State) : State :=
  { s with msg := some m, status := .ok, err := none, phase := .idle }

/-- The end of a LENGTH: the number it returns; it writes nothing else and never faults (R184, R39). -/
def finishLength (n : Nat) (s : State) : State :=
  { s with lengthOut := some n, status := .ok, err := none, phase := .idle }

/-- What one instruction does under each command (R170): its payload decoder under DECODE, its writes under ENCODE,
`upgrade` and `length` under the other two. `write` answers none for a message of another row. -/
def runCommand (decodePayload : Params → Nat → Bytes → ReadResult Message)
    (write : Params → Message → Option (Bytes → WriteResult))
    (upgrade : Message → State → Host.Outcome State Fault Refusal)
    (length : Params → Message → Nat)
    (payload : Bytes) (s : State) : Host.Outcome State Fault Refusal :=
  match s.cmd with
  | none => .next s
  | some .decode => endDecode (decodePayload s.params s.l.toNat payload) payload s
  | some command =>
    match s.msg with
    | none => .fault .messageUnwritten
    | some m =>
      match write s.params m with
      | none => .fault .foreignMessage
      | some writes =>
        match command with
        | .encode => endEncode (writes s.snk) s
        | .upgrade => upgrade m s
        | .length => .next (finishLength (length s.params m) s)
        | .decode => .next s

end Sys2Proof.Machine
end

