-- ==== Sys2Proof/Machine/Flags.lean ====
section
/-! DEFINITION. The flags of the block: DIR, written from bit 6 of the SID, and STATUS, the result of the last
command; there are no others (10_state.md R35, R39). With them the scratch registers the dispatch phases write
(R30, R31, R34, R36). -/

namespace Sys2Proof.Machine

/-- Phase SID (R172 step 1): the SID byte has been read, so RPOS is 1. -/
def phaseSid (s : State) : State :=
  { s with phase := .sid, rpos := 1 }

/-- Phase DIRECTION (R172 step 2): DIR is bit 6 of the SID (R35, R173). -/
def phaseDirection (sid : Byte) (s : State) : State :=
  { s with phase := .direction, dir := dirOf sid }

/-- Phase RESOLVE (R172 step 3): FAM is what the SID table gives for the base SID and DIR (R36). -/
def phaseResolve (sid : Byte) (s : State) : State :=
  { s with phase := .resolve, fam := familyOf (baseOf sid) s.dir }

/-- Phase DEFAULT (R172 step 4): the default instance of the kind is the payload decoder's own (R29), so no register
changes. -/
def phaseDefault (s : State) : State :=
  { s with phase := .default }

/-- Phase PAYLOAD (R172 step 5): L is PLEN - 1 (R34). Reached only with `PLEN >= 1`. -/
def phasePayload (s : State) : State :=
  { s with phase := .payload, l := s.plen - 1 }

/-- The five phases from the SID read to the payload decoder, in their order (R31). -/
def dispatchPhases (sid : Byte) (s : State) : State :=
  phasePayload (phaseDefault (phaseResolve sid (phaseDirection sid (phaseSid s))))

/-- The last command ended in a fault (R39). -/
def State.faulted (s : State) : Bool :=
  decide (s.status = .fault)

end Sys2Proof.Machine
end

