-- ==== Sys2Proof/Machine/Operands.lean ====
section
/-! DEFINITION. Every way a field is built from message bytes and back (30_encoding.md R102, 41_field_primitives.md):
the control-byte parser, big-endian integers, the variable-width extractor, and the checks. -/

namespace Sys2Proof.Machine

/-! ### The bit-packed control-byte parser (R150) -/

/-- `Split(b)`: the high nibble, then the low nibble. -/
def split (b : Byte) : Nibble × Nibble :=
  ((b >>> 4).truncate 4, b.truncate 4)

/-- `Pack(hi, lo) = hi * 16 + lo`. -/
def pack (hi lo : Nibble) : Byte :=
  hi.zeroExtend 8 * 16 + lo.zeroExtend 8

/-! ### Big-endian integers (R151, R152) -/

/-- `be(bs)`: the unsigned integer whose big-endian bytes are `bs`. -/
def be (bs : Bytes) : Nat :=
  bs.foldl (fun v b => v * 256 + b.toNat) 0

/-- `bytes_be(v, n)`: the `n` big-endian bytes of `v`; its callers see to `v < 256^n`. -/
def bytesBe (v : Nat) : Nat → Bytes
  | 0 => []
  | n + 1 => BitVec.ofNat 8 (v / 256 ^ n) :: bytesBe v n

/-! ### Checks (R153, R156, R157) -/

/-- The legal widths of a variable-width field (R153). -/
def legalWidth (w : Nat) : Bool :=
  decide (w = 1 ∨ w = 2 ∨ w = 4)

/-- `CheckExact(L, n)` while reading (R157). -/
def checkExact {α : Type} (l n : Nat) (bs : Bytes) (k : ReadResult α) : ReadResult α :=
  if l ≠ n then .fail (.payloadLengthTooShort l n) bs else k

/-- `CheckMin(L, n)` while reading (R157). -/
def checkMin {α : Type} (l n : Nat) (bs : Bytes) (k : ReadResult α) : ReadResult α :=
  if l < n then .fail (.payloadLengthTooShort l n) bs else k

/-- `CheckWidth(W)` while reading (R153). -/
def checkWidth {α : Type} (w : Nat) (bs : Bytes) (k : ReadResult α) : ReadResult α :=
  if legalWidth w then k else .fail (.unexpectedPayloadType w) bs

/-- `CheckWidth(W)` while writing (R153). -/
def requireWidth (w : Nat) (snk : Bytes) (k : WriteResult) : WriteResult :=
  if legalWidth w then k else .fail (.unexpectedPayloadType w) snk

/-- `CheckFits(W, v)` (R156): a value that does not fit its width is never truncated. -/
def requireFits (w v : Nat) (snk : Bytes) (k : WriteResult) : WriteResult :=
  if 256 ^ w ≤ v then .fail (.encodingError .none) snk else k

/-! ### Fields -/

/-- `ReadU16()` (R161). -/
def readU16 {α : Type} (bs : Bytes) (k : Half → Bytes → ReadResult α) : ReadResult α :=
  srcRead 2 bs fun v rest => k (BitVec.ofNat 16 (be v)) rest

/-- `WriteU16(v)` (R161). -/
def writeU16 (c : Params) (v : Half) (snk : Bytes) (k : Bytes → WriteResult) : WriteResult :=
  snkWrite c (bytesBe v.toNat 2) snk k

/-- `ReadVar(W)` (R155): the width is judged before any byte is read, the value zero-extended to 32 bits. -/
def readVar {α : Type} (w : Nat) (bs : Bytes) (k : Word → Bytes → ReadResult α) : ReadResult α :=
  checkWidth w bs <| srcRead w bs fun v rest => k (BitVec.ofNat 32 (be v)) rest

/-- `WriteVar(W, v)` (R154): width, then fit, then the write. -/
def writeVar (c : Params) (w : Nat) (v : Word) (snk : Bytes) (k : Bytes → WriteResult) : WriteResult :=
  requireWidth w snk <| requireFits w v.toNat snk <| snkWrite c (bytesBe v.toNat w) snk k

/-- One byte to the sink. -/
def writeByte (c : Params) (b : Byte) (snk : Bytes) (k : Bytes → WriteResult) : WriteResult :=
  snkWrite c [b] snk k

end Sys2Proof.Machine
end

