-- ==== Sys2Proof/Machine/Engine.lean ====
section
/-! DEFINITION. The Codec Engine (40_codec_engine.md): decode, encode and length by recursion over the shape, and the
well-formedness of tables. -/

namespace Sys2Proof.Machine

/-- The engine's two failures (R122, R130). The host never sees them as such (R265). -/
inductive EngineFail where
  | insufficientData | protocolMismatch
deriving DecidableEq, Repr

/-! ### Decoding (R123 to R128): from the bytes left to a value and the bytes left after it -/

/-- A fixed-width big-endian integer of `n` bytes (R123). -/
def decodeInt (n : Nat) (make : Nat → Val) (buf : Bytes) : Except EngineFail (Val × Bytes) :=
  if buf.length < n then .error .insufficientData else .ok (make (be (buf.take n)), buf.drop n)

/-- The greedy loop of a sequence (R127): an element that runs out of input ends it where that element began; a
mismatch inside an element is passed on. `fuel` bounds the loop; under R132 each element takes a byte or more. -/
def decodeSeq (element : Bytes → Except EngineFail (Val × Bytes)) :
    Nat → Bytes → Except EngineFail (Vals × Bytes)
  | 0, buf => .ok (.nil, buf)
  | fuel + 1, buf =>
    match element buf with
    | .error .insufficientData => .ok (.nil, buf)
    | .error .protocolMismatch => .error .protocolMismatch
    | .ok (v, rest) =>
      match decodeSeq element fuel rest with
      | .error e => .error e
      | .ok (vs, rest') => .ok (.cons v vs, rest')

mutual
/-- `Dec(S, buf, p)` on the bytes from `p` on. -/
def decodeShape : Shape → Bytes → Except EngineFail (Val × Bytes)
  | .u8, buf => decodeInt 1 (fun n => .u8 (BitVec.ofNat 8 n)) buf
  | .u16, buf => decodeInt 2 (fun n => .u16 (BitVec.ofNat 16 n)) buf
  | .u32, buf => decodeInt 4 (fun n => .u32 (BitVec.ofNat 32 n)) buf
  | .unit, buf => .ok (.unit, buf)
  | .record fields, buf =>
    match decodeFields fields buf with
    | .error e => .error e
    | .ok (vs, rest) => .ok (.record vs, rest)
  | .union variants, buf =>
    match buf with
    | [] => .error .insufficientData
    | index :: rest =>
      match decodeVariant variants index.toNat rest with
      | .error e => .error e
      | .ok (v, rest') => .ok (.variant index v, rest')
  | .seq element, buf =>
    match decodeSeq (decodeShape element) (buf.length + 1) buf with
    | .error e => .error e
    | .ok (vs, rest) => .ok (.seq vs, rest)
  | .unsupported _, _ => .error .protocolMismatch
/-- The fields of a record in declaration order; the first failing field's failure is the record's (R126). -/
def decodeFields : Entries → Bytes → Except EngineFail (Vals × Bytes)
  | .nil, buf => .ok (.nil, buf)
  | .cons _ shape fields, buf =>
    match decodeShape shape buf with
    | .error e => .error e
    | .ok (v, rest) =>
      match decodeFields fields rest with
      | .error e => .error e
      | .ok (vs, rest') => .ok (.cons v vs, rest')
/-- The data of the variant at an index; an index with no entry is a mismatch (R125, decision D10). -/
def decodeVariant : Entries → Nat → Bytes → Except EngineFail (Val × Bytes)
  | .nil, _, _ => .error .protocolMismatch
  | .cons _ shape _, 0, buf => decodeShape shape buf
  | .cons _ _ rest, i + 1, buf => decodeVariant rest i buf
end

/-- `EngineDecode(S, buf, p)`: the value and the offset after it (R122). -/
def engineDecode (shape : Shape) (buf : Bytes) (p : Nat) : Except EngineFail (Val × Nat) :=
  match decodeShape shape (buf.drop p) with
  | .error e => .error e
  | .ok (v, rest) => .ok (v, p + ((buf.drop p).length - rest.length))

/-! ### Encoding (R123 to R128) -/

/-- Every element contiguously, first to last (R127). -/
def encodeSeq (element : Val → Except EngineFail Bytes) : Vals → Except EngineFail Bytes
  | .nil => .ok []
  | .cons v vs =>
    match element v with
    | .error e => .error e
    | .ok bs =>
      match encodeSeq element vs with
      | .error e => .error e
      | .ok more => .ok (bs ++ more)

mutual
/-- `Enc(S, v)`. A value that is not of the shape is a mismatch, as an unsupported shape is
(DEDUCED, notes/assumptions/10.md). -/
def encodeShape : Shape → Val → Except EngineFail Bytes
  | .u8, value => match value with
    | .u8 v => .ok (bytesBe v.toNat 1)
    | _ => .error .protocolMismatch
  | .u16, value => match value with
    | .u16 v => .ok (bytesBe v.toNat 2)
    | _ => .error .protocolMismatch
  | .u32, value => match value with
    | .u32 v => .ok (bytesBe v.toNat 4)
    | _ => .error .protocolMismatch
  | .unit, value => match value with
    | .unit => .ok []
    | _ => .error .protocolMismatch
  | .record fields, value => match value with
    | .record vs => encodeFields fields vs
    | _ => .error .protocolMismatch
  | .union variants, value => match value with
    | .variant index v =>
      match encodeVariant variants index.toNat v with
      | .error e => .error e
      | .ok bs => .ok (index :: bs)
    | _ => .error .protocolMismatch
  | .seq element, value => match value with
    | .seq vs => encodeSeq (encodeShape element) vs
    | _ => .error .protocolMismatch
  | .unsupported _, _ => .error .protocolMismatch
/-- The fields of a record in declaration order (R126). -/
def encodeFields : Entries → Vals → Except EngineFail Bytes
  | .nil, .nil => .ok []
  | .cons _ shape fields, .cons v vs =>
    match encodeShape shape v with
    | .error e => .error e
    | .ok bs =>
      match encodeFields fields vs with
      | .error e => .error e
      | .ok more => .ok (bs ++ more)
  | _, _ => .error .protocolMismatch
/-- The data of the variant at an index (R124). -/
def encodeVariant : Entries → Nat → Val → Except EngineFail Bytes
  | .nil, _, _ => .error .protocolMismatch
  | .cons _ shape _, 0, v => encodeShape shape v
  | .cons _ _ rest, i + 1, v => encodeVariant rest i v
end

/-- `EngineEncode(S, v)` (R122). -/
def engineEncode (shape : Shape) (v : Val) : Except EngineFail Bytes :=
  encodeShape shape v

/-! ### Lengths (R129) -/

/-- The sum of the elements' lengths. -/
def seqLen (element : Val → Nat) : Vals → Nat
  | .nil => 0
  | .cons v vs => element v + seqLen element vs

mutual
/-- `EngineLen(S, v)`; a free value where R129 has no row (DESIGN CHOICE, notes/assumptions/9.md). -/
def engineLen : Shape → Val → Nat
  | .u8, value => match value with
    | .u8 _ => 1
    | other => Config.freeEngineLen .u8 other
  | .u16, value => match value with
    | .u16 _ => 2
    | other => Config.freeEngineLen .u16 other
  | .u32, value => match value with
    | .u32 _ => 4
    | other => Config.freeEngineLen .u32 other
  | .unit, value => match value with
    | .unit => 0
    | other => Config.freeEngineLen .unit other
  | .record fields, value => match value with
    | .record vs => fieldsLen fields vs
    | other => Config.freeEngineLen (.record fields) other
  | .union variants, value => match value with
    | .variant index v => 1 + variantLen variants index.toNat v
    | other => Config.freeEngineLen (.union variants) other
  | .seq element, value => match value with
    | .seq vs => seqLen (engineLen element) vs
    | other => Config.freeEngineLen (.seq element) other
  | .unsupported what, value => Config.freeEngineLen (.unsupported what) value
/-- The sum of the fields' lengths. -/
def fieldsLen : Entries → Vals → Nat
  | .nil, .nil => 0
  | .cons _ shape fields, .cons v vs => engineLen shape v + fieldsLen fields vs
  | fields, vs => Config.freeEngineLen (.record fields) (.record vs)
/-- The length of the data of the variant at an index. -/
def variantLen : Entries → Nat → Val → Nat
  | .nil, _, v => Config.freeEngineLen (.union .nil) v
  | .cons _ shape _, 0, v => engineLen shape v
  | .cons _ _ rest, i + 1, v => variantLen rest i v
end

mutual
/-- `MinLen(S)`, the least length of any value (R129). An unsupported shape has no value, so any bound holds of it;
1 lets it stand anywhere, as R132 allows (DEDUCED, notes/assumptions/11.md). -/
def minLen : Shape → Nat
  | .u8 => 1
  | .u16 => 2
  | .u32 => 4
  | .unit => 0
  | .record fields => fieldsMinLen fields
  | .union variants => 1 + (leastMinLen variants).getD 0
  | .seq _ => 0
  | .unsupported _ => 1
/-- The sum of the fields' least lengths. -/
def fieldsMinLen : Entries → Nat
  | .nil => 0
  | .cons _ shape rest => minLen shape + fieldsMinLen rest
/-- The least of the entries' least lengths. -/
def leastMinLen : Entries → Option Nat
  | .nil => none
  | .cons _ shape rest =>
    match leastMinLen rest with
    | none => some (minLen shape)
    | some n => some (min (minLen shape) n)
end

/-! ### Values of a shape, and well-formed tables -/

/-- Every element satisfies a test. -/
def allVals (element : Val → Bool) : Vals → Bool
  | .nil => true
  | .cons v vs => element v && allVals element vs

mutual
/-- `v` is a value of the shape (R121). -/
def hasShape : Shape → Val → Bool
  | .u8, value => match value with
    | .u8 _ => true
    | _ => false
  | .u16, value => match value with
    | .u16 _ => true
    | _ => false
  | .u32, value => match value with
    | .u32 _ => true
    | _ => false
  | .unit, value => match value with
    | .unit => true
    | _ => false
  | .record fields, value => match value with
    | .record vs => fieldsHaveShape fields vs
    | _ => false
  | .union variants, value => match value with
    | .variant index v => variantHasShape variants index.toNat v
    | _ => false
  | .seq element, value => match value with
    | .seq vs => allVals (hasShape element) vs
    | _ => false
  | .unsupported _, value => match value with
    | .placeholder => true
    | _ => false
/-- The i-th value is of the i-th field's shape. -/
def fieldsHaveShape : Entries → Vals → Bool
  | .nil, .nil => true
  | .cons _ shape fields, .cons v vs => hasShape shape v && fieldsHaveShape fields vs
  | _, _ => false
/-- There is an entry at the index and the value is of its shape. -/
def variantHasShape : Entries → Nat → Val → Bool
  | .nil, _, _ => false
  | .cons _ shape _, 0, v => hasShape shape v
  | .cons _ _ rest, i + 1, v => variantHasShape rest i v
end

mutual
/-- Walking the shape over no input reaches an unsupported shape before anything asks for a byte. It is how the
last attempt of a sequence can meet one (R127, R128; DEDUCED, notes/assumptions/11.md). -/
def emptyWalkUnsupported : Shape → Bool
  | .unsupported _ => true
  | .record fields => fieldsEmptyWalkUnsupported fields
  | .u8 => false
  | .u16 => false
  | .u32 => false
  | .unit => false
  | .union _ => false
  | .seq element => emptyWalkUnsupported element
/-- The same for the fields of a record: up to the first that takes a byte. -/
def fieldsEmptyWalkUnsupported : Entries → Bool
  | .nil => false
  | .cons _ shape rest =>
    emptyWalkUnsupported shape || (decide (minLen shape = 0) && fieldsEmptyWalkUnsupported rest)
end

mutual
/-- The value meets no unsupported shape (R128: "The failure arises when the walk reaches the unsupported
position"), the attempt that ends a sequence included. -/
def meetsNoUnsupported : Shape → Val → Bool
  | .unsupported _, _ => false
  | .record fields, .record vs => fieldsMeetNoUnsupported fields vs
  | .union variants, .variant index v => variantMeetsNoUnsupported variants index.toNat v
  | .seq element, .seq vs => !emptyWalkUnsupported element && allVals (meetsNoUnsupported element) vs
  | _, _ => true
/-- The same for the fields of a record. -/
def fieldsMeetNoUnsupported : Entries → Vals → Bool
  | .cons _ shape fields, .cons v vs => meetsNoUnsupported shape v && fieldsMeetNoUnsupported fields vs
  | _, _ => true
/-- The same for the variant at an index. -/
def variantMeetsNoUnsupported : Entries → Nat → Val → Bool
  | .nil, _, _ => true
  | .cons _ shape _, 0, v => meetsNoUnsupported shape v
  | .cons _ _ rest, i + 1, v => variantMeetsNoUnsupported rest i v
end

/-- There are no entries. -/
def noEntries : Entries → Bool
  | .nil => true
  | .cons _ _ _ => false

mutual
/-- The conditions of R132 on a shape; `tail` says that it stands in tail position. A sequence stands in tail
position only, and its element holds none and has `MinLen >= 1`; every union has 1 to 256 entries. -/
def shapeOk : Bool → Shape → Bool
  | _, .u8 => true
  | _, .u16 => true
  | _, .u32 => true
  | _, .unit => true
  | tail, .record fields => fieldsOk tail fields
  | tail, .union variants =>
    decide (1 ≤ variants.length ∧ variants.length ≤ 256) && variantsOk tail variants
  | tail, .seq element => tail && decide (1 ≤ minLen element) && shapeOk false element
  | _, .unsupported _ => true
/-- Only the last field of a record in tail position is in tail position. -/
def fieldsOk : Bool → Entries → Bool
  | _, .nil => true
  | tail, .cons _ shape rest => shapeOk (tail && noEntries rest) shape && fieldsOk tail rest
/-- Every entry of a union in tail position is in tail position. -/
def variantsOk : Bool → Entries → Bool
  | _, .nil => true
  | tail, .cons _ shape rest => shapeOk tail shape && variantsOk tail rest
end

/-- A DTC table, the list of a top-level union, is well-formed (R132). -/
def tableOk (table : Entries) : Bool :=
  shapeOk true (.union table)

/-- What R211 fixes of `DTC_REQ_TABLE`, with R132: entry 10 is ReportSupportedDTC, which carries nothing, and there
are at least 21 entries. -/
def reqTableOk (table : Entries) : Bool :=
  tableOk table && decide (table.get? 10 = some ("ReportSupportedDTC", .unit)) && decide (21 ≤ table.length)

end Sys2Proof.Machine
end

