-- ==== Sys2Proof/Machine/Utf8.lean ====
section
/-! DEFINITION. The path check of RequestFileTransfer: well-formed UTF-8 by the table of
46_request_file_transfer.md R235. -/

namespace Sys2Proof.Machine

/-- The rows of the table of R235: for each row the inclusive range of its first, second, third and fourth byte. -/
def utf8Rows : List (List (Nat × Nat)) :=
  [[(0x00, 0x7F)],
   [(0xC2, 0xDF), (0x80, 0xBF)],
   [(0xE0, 0xE0), (0xA0, 0xBF), (0x80, 0xBF)],
   [(0xE1, 0xEC), (0x80, 0xBF), (0x80, 0xBF)],
   [(0xED, 0xED), (0x80, 0x9F), (0x80, 0xBF)],
   [(0xEE, 0xEF), (0x80, 0xBF), (0x80, 0xBF)],
   [(0xF0, 0xF0), (0x90, 0xBF), (0x80, 0xBF), (0x80, 0xBF)],
   [(0xF1, 0xF3), (0x80, 0xBF), (0x80, 0xBF), (0x80, 0xBF)],
   [(0xF4, 0xF4), (0x80, 0x8F), (0x80, 0xBF), (0x80, 0xBF)]]

/-- The bytes after a sequence of the row, when the bytes begin with one. -/
def utf8MatchRow : List (Nat × Nat) → Bytes → Option Bytes
  | [], bs => some bs
  | _ :: _, [] => none
  | (low, high) :: row, b :: bs =>
    if low ≤ b.toNat ∧ b.toNat ≤ high then utf8MatchRow row bs else none

/-- The bytes after the first sequence of any row; the rows differ in their first byte. -/
def utf8Next (bs : Bytes) : Option Bytes :=
  utf8Rows.findSome? fun row => utf8MatchRow row bs

/-- The bytes are a concatenation of sequences of the table; `fuel` is at least their number. -/
def utf8Check : Nat → Bytes → Bool
  | _, [] => true
  | 0, _ :: _ => false
  | fuel + 1, b :: bs =>
    match utf8Next (b :: bs) with
    | none => false
    | some rest => utf8Check fuel rest

/-- Well-formed UTF-8 (R235); the empty string is (R234). -/
def validUtf8 (bs : Bytes) : Bool :=
  utf8Check bs.length bs

end Sys2Proof.Machine
end

