-- ==== Sys2Proof/Machine/Frame.lean ====
section
/-! DEFINITION. The frame and the length of a message: the SID write (42_dispatch_framing.md R178, R179), the
encoded length (30_encoding.md R106, R184), which optional groups a RequestFileTransfer mode carries
(46_request_file_transfer.md R232), well-formedness of a message (10_state.md R25), and what each instruction does
under LENGTH and UPGRADE. -/

namespace Sys2Proof.Machine

/-- The SID of the kind, then the payload's writes (R178, R179). Raw has no SID of its own and writes none. -/
def writeFrame (c : Params) (k : Kind) (payload : Bytes → WriteResult) (snk : Bytes) : WriteResult :=
  match sidOf k with
  | none => payload snk
  | some sid => snkWrite c [sid] snk payload

/-- `HasMethod(mode)` (R232). Outside 1 to 5 the spec gives no answer: a free value (DESIGN CHOICE,
notes/assumptions/9.md). -/
def hasMethod (c : Params) (mode : Byte) : Bool :=
  if mode = 1 ∨ mode = 3 then true
  else if mode = 2 then c.rftDeleteHasMethod
  else if mode = 4 ∨ mode = 5 then false
  else Config.freeHasMethod mode

/-- `HasSize(mode)` (R232). Outside 1 to 5 the spec gives no answer: a free value (DESIGN CHOICE,
notes/assumptions/9.md). -/
def hasSize (c : Params) (mode : Byte) : Bool :=
  if mode = 1 ∨ mode = 3 then true
  else if mode = 2 then false
  else if mode = 4 ∨ mode = 5 then c.rftReadHasSize
  else Config.freeHasSize mode

/-- The mode is one of the five of R95. -/
def legalMode (mode : Byte) : Bool :=
  decide (1 ≤ mode.toNat ∧ mode.toNat ≤ 5)

/-- `ELEN` of the RequestFileTransfer fields (R106). -/
def fileTransferLen (c : Params) (f : FileTransfer) : Nat :=
  3 + f.path.length + (if hasMethod c f.mode then 1 else 0) +
    (if hasSize c f.mode then 1 + 2 * f.fsizeBytes.toNat else 0)

/-- `ELEN(M)`: the bytes after the SID (R106). -/
def elen (c : Params) : Message → Nat
  | .readDidReq _ => 2
  | .readDidRsp _ data => 2 + data.length
  | .writeDidReq _ data => 2 + data.length
  | .writeDidRsp _ => 2
  | .readDtcReq sub => engineLen (.union c.dtcReqTable) sub
  | .readDtcRsp sub => engineLen (.union c.dtcRspTable) sub
  | .requestDownloadReq f => 2 + f.addrBytes.toNat + f.sizeBytes.toNat
  | .requestDownloadRsp blockBytes _ => 1 + blockBytes.toNat
  | .fileTransferReq f => fileTransferLen c f
  | .fileTransferRsp f => fileTransferLen c f
  | .transferDataReq _ data => 1 + data.length
  | .transferDataRsp _ => 1
  | .transferExitReq data => data.length
  | .transferExitRsp data => data.length
  | .negativeResponse _ _ => 2
  | .raw bytes => bytes.length - 1

/-- `MsgLen(M)`: the number of bytes a successful ENCODE appends, which LENGTH returns (R106, R184). -/
def msgLen (c : Params) : Message → Nat
  | .raw bytes => bytes.length
  | m => 1 + elen c m

/-- `Norm` of the RequestFileTransfer fields: those of a group the mode does not carry set to 0 (R237). -/
def normFileTransfer (c : Params) (f : FileTransfer) : FileTransfer :=
  { f with
    compression := if hasMethod c f.mode then f.compression else 0
    encryption := if hasMethod c f.mode then f.encryption else 0
    fsizeBytes := if hasSize c f.mode then f.fsizeBytes else 0
    sizeUncompressed := if hasSize c f.mode then f.sizeUncompressed else 0
    sizeCompressed := if hasSize c f.mode then f.sizeCompressed else 0 }

/-- `Norm(M)`, the identity on every kind but RequestFileTransfer (R185, R237). -/
def norm (c : Params) : Message → Message
  | .fileTransferReq f => .fileTransferReq (normFileTransfer c f)
  | .fileTransferRsp f => .fileTransferRsp (normFileTransfer c f)
  | m => m

/-- A value of a declared width: the width is legal and the value fits it (R24). -/
def fits (w : Nat) (v : Word) : Bool :=
  legalWidth w && decide (v.toNat < 256 ^ w)

/-- The legal values of the RequestFileTransfer fields (R24, R25). -/
def wfFileTransfer (c : Params) (f : FileTransfer) : Bool :=
  legalMode f.mode && decide (f.path.length ≤ 65535) && validUtf8 f.path &&
    (!hasSize c f.mode || (fits f.fsizeBytes.toNat f.sizeUncompressed && fits f.fsizeBytes.toNat f.sizeCompressed))

/-- `WF(MSG)` (R25): every field has one of the legal values of R24. A Raw the host builds may hold any byte string
(R28), so every Raw is well-formed. -/
def wfMessage (c : Params) : Message → Bool
  | .readDidReq _ => true
  | .readDidRsp _ _ => true
  | .writeDidReq _ _ => true
  | .writeDidRsp _ => true
  | .readDtcReq sub => hasShape (.union c.dtcReqTable) sub
  | .readDtcRsp sub => hasShape (.union c.dtcRspTable) sub
  | .requestDownloadReq f => fits f.addrBytes.toNat f.address && fits f.sizeBytes.toNat f.size
  | .requestDownloadRsp blockBytes maxBlockSize => fits blockBytes.toNat maxBlockSize
  | .fileTransferReq f => wfFileTransfer c f
  | .fileTransferRsp f => wfFileTransfer c f
  | .transferDataReq _ _ => true
  | .transferDataRsp _ => true
  | .transferExitReq _ => true
  | .transferExitRsp _ => true
  | .negativeResponse _ _ => true
  | .raw _ => true

/-- The DTC value, if the message has one, meets no unsupported shape (R178, R185). -/
def encodable (c : Params) : Message → Bool
  | .readDtcReq sub => meetsNoUnsupported (.union c.dtcReqTable) sub
  | .readDtcRsp sub => meetsNoUnsupported (.union c.dtcRspTable) sub
  | _ => true

/-- UPGRADE of a message that is not a Raw: it is returned unchanged (R182). -/
def keepTyped (m : Message) (s : State) : Host.Outcome State Fault Refusal :=
  .next (finishUpgrade m s)

/-- What one instruction of a typed kind does under each command: its payload decoder, its payload writes after the
SID, UPGRADE unchanged, LENGTH by the formula. `write` answers none for a message of another row. -/
def runTyped (k : Kind) (decodePayload : Params → Nat → Bytes → ReadResult Message)
    (write : Params → Message → Option (Bytes → WriteResult))
    (payload : Bytes) (s : State) : Host.Outcome State Fault Refusal :=
  runCommand decodePayload (fun c m => (write c m).map (writeFrame c k)) keepTyped msgLen payload s

end Sys2Proof.Machine
end

