-- ==== Sys2Proof/Machine/Did.lean ====
section
/-! DEFINITION. ReadDID and WriteDID (43_did.md). Two layouts, DID and DID+DATA, serve the four kinds (R204). -/

namespace Sys2Proof.Machine

/-- The DID layout (R86): exactly two bytes after the SID, judged before anything is read (R205). -/
def decodeDid (make : Half → Message) (l : Nat) (payload : Bytes) : ReadResult Message :=
  checkExact l 2 payload <|
  readU16 payload fun did rest =>
  .ok (make did) rest

/-- The DID+DATA layout (R87): the DID, then every byte that remains. -/
def decodeDidData (make : Half → Bytes → Message) (c : Params) (l : Nat) (payload : Bytes) : ReadResult Message :=
  checkMin l 2 payload <|
  readU16 payload fun did rest =>
  readTrailing c (l - 2) rest fun data rest =>
  .ok (make did data) rest

/-- The writes of the DID layout. -/
def writeDid (c : Params) (did : Half) (snk : Bytes) : WriteResult :=
  writeU16 c did snk .ok

/-- The writes of the DID+DATA layout. -/
def writeDidData (c : Params) (did : Half) (data : Bytes) (snk : Bytes) : WriteResult :=
  writeU16 c did snk fun snk =>
  snkWrite c data snk .ok

/-! ### ReadDID.req (R200) -/

/-- Decode(L) of R200. -/
def decodeReadDidReq (_ : Params) (l : Nat) (payload : Bytes) : ReadResult Message :=
  decodeDid .readDidReq l payload

/-- Encode(M) of R200. -/
def writeReadDidReq (c : Params) : Message → Option (Bytes → WriteResult)
  | .readDidReq did => some (writeDid c did)
  | _ => none

/-- ReadDID.req, SID 0x22. -/
def execReadDidReq (payload : Bytes) (s : State) : Host.Outcome State Fault Refusal :=
  runTyped .readDidReq decodeReadDidReq writeReadDidReq payload s

/-! ### ReadDID.rsp (R201) -/

/-- Decode(L) of R201. -/
def decodeReadDidRsp (c : Params) (l : Nat) (payload : Bytes) : ReadResult Message :=
  decodeDidData .readDidRsp c l payload

/-- Encode(M) of R201. -/
def writeReadDidRsp (c : Params) : Message → Option (Bytes → WriteResult)
  | .readDidRsp did data => some (writeDidData c did data)
  | _ => none

/-- ReadDID.rsp, SID 0x62. -/
def execReadDidRsp (payload : Bytes) (s : State) : Host.Outcome State Fault Refusal :=
  runTyped .readDidRsp decodeReadDidRsp writeReadDidRsp payload s

/-! ### WriteDID.req (R202) -/

/-- Decode(L) of R202. -/
def decodeWriteDidReq (c : Params) (l : Nat) (payload : Bytes) : ReadResult Message :=
  decodeDidData .writeDidReq c l payload

/-- Encode(M) of R202. -/
def writeWriteDidReq (c : Params) : Message → Option (Bytes → WriteResult)
  | .writeDidReq did data => some (writeDidData c did data)
  | _ => none

/-- WriteDID.req, SID 0x2E. -/
def execWriteDidReq (payload : Bytes) (s : State) : Host.Outcome State Fault Refusal :=
  runTyped .writeDidReq decodeWriteDidReq writeWriteDidReq payload s

/-! ### WriteDID.rsp (R203) -/

/-- Decode(L) of R203. -/
def decodeWriteDidRsp (_ : Params) (l : Nat) (payload : Bytes) : ReadResult Message :=
  decodeDid .writeDidRsp l payload

/-- Encode(M) of R203. -/
def writeWriteDidRsp (c : Params) : Message → Option (Bytes → WriteResult)
  | .writeDidRsp did => some (writeDid c did)
  | _ => none

/-- WriteDID.rsp, SID 0x6E. -/
def execWriteDidRsp (payload : Bytes) (s : State) : Host.Outcome State Fault Refusal :=
  runTyped .writeDidRsp decodeWriteDidRsp writeWriteDidRsp payload s

end Sys2Proof.Machine
end

