-- ==== Sys2Proof/Machine/Download.lean ====
section
/-! DEFINITION. RequestDownload (45_request_download.md). -/

namespace Sys2Proof.Machine

/-! ### RequestDownload.req (R220) -/

/-- Decode(L) of R220: the two control bytes, the address width before the size width, the exact length, then the
address and the size. -/
def decodeRequestDownloadReq (_ : Params) (l : Nat) (payload : Bytes) : ReadResult Message :=
  checkMin l 2 payload <|
  readByte payload fun methodByte rest =>
  readByte rest fun descriptor rest =>
  checkWidth (split descriptor).2.toNat rest <|
  checkWidth (split descriptor).1.toNat rest <|
  checkExact l (2 + (split descriptor).2.toNat + (split descriptor).1.toNat) rest <|
  readVar (split descriptor).2.toNat rest fun address rest =>
  readVar (split descriptor).1.toNat rest fun size rest =>
  .ok (.requestDownloadReq
    { compression := (split methodByte).1
      encryption := (split methodByte).2
      addrBytes := (split descriptor).2
      sizeBytes := (split descriptor).1
      address := address
      size := size }) rest

/-- The payload writes of R220. -/
def writeDownload (c : Params) (f : Download) (snk : Bytes) : WriteResult :=
  writeByte c (pack f.compression f.encryption) snk fun snk =>
  requireWidth f.addrBytes.toNat snk <|
  requireWidth f.sizeBytes.toNat snk <|
  writeByte c (pack f.sizeBytes f.addrBytes) snk fun snk =>
  writeVar c f.addrBytes.toNat f.address snk fun snk =>
  writeVar c f.sizeBytes.toNat f.size snk .ok

/-- Encode(M) of R220. -/
def writeRequestDownloadReq (c : Params) : Message → Option (Bytes → WriteResult)
  | .requestDownloadReq f => some (writeDownload c f)
  | _ => none

/-- RequestDownload.req, SID 0x34. -/
def execRequestDownloadReq (payload : Bytes) (s : State) : Host.Outcome State Fault Refusal :=
  runTyped .requestDownloadReq decodeRequestDownloadReq writeRequestDownloadReq payload s

/-! ### RequestDownload.rsp (R222) -/

/-- `LowNibbleRule(low)` (R223). -/
def lowNibbleRule {α : Type} (c : Params) (low : Nibble) (bs : Bytes) (k : ReadResult α) : ReadResult α :=
  if c.rdRspLowNibble = .reject ∧ low ≠ 0 then .fail (.encodingError .none) bs else k

/-- Decode(L) of R222. -/
def decodeRequestDownloadRsp (c : Params) (l : Nat) (payload : Bytes) : ReadResult Message :=
  checkMin l 1 payload <|
  readByte payload fun descriptor rest =>
  lowNibbleRule c (split descriptor).2 rest <|
  checkWidth (split descriptor).1.toNat rest <|
  checkExact l (1 + (split descriptor).1.toNat) rest <|
  readVar (split descriptor).1.toNat rest fun maxBlockSize rest =>
  .ok (.requestDownloadRsp (split descriptor).1 maxBlockSize) rest

/-- The payload writes of R222; the low nibble is written as 0. -/
def writeBlockSize (c : Params) (blockBytes : Nibble) (maxBlockSize : Word) (snk : Bytes) : WriteResult :=
  requireWidth blockBytes.toNat snk <|
  writeByte c (pack blockBytes 0) snk fun snk =>
  writeVar c blockBytes.toNat maxBlockSize snk .ok

/-- Encode(M) of R222. -/
def writeRequestDownloadRsp (c : Params) : Message → Option (Bytes → WriteResult)
  | .requestDownloadRsp blockBytes maxBlockSize => some (writeBlockSize c blockBytes maxBlockSize)
  | _ => none

/-- RequestDownload.rsp, SID 0x74. -/
def execRequestDownloadRsp (payload : Bytes) (s : State) : Host.Outcome State Fault Refusal :=
  runTyped .requestDownloadRsp decodeRequestDownloadRsp writeRequestDownloadRsp payload s

end Sys2Proof.Machine
end

