-- ==== Sys2Proof/Machine/Dtc.lean ====
section
/-! DEFINITION. ReadDTCInformation (44_read_dtc.md): both codecs delegate to the Codec Engine over the direction's
table (R214, R215). -/

namespace Sys2Proof.Machine

/-- `DecodeDTC(T, L)` (R213): stage the `L` bytes, run the engine over them, map its failures onto the host's kinds
(R265), and fault when bytes are left over. -/
def decodeDtc (table : Entries) (make : Val → Message) (l : Nat) (payload : Bytes) : ReadResult Message :=
  srcRead l payload fun buf rest =>
  match engineDecode (.union table) buf 0 with
  | .error .insufficientData => .fail (.io .insufficientData) rest
  | .error .protocolMismatch => .fail (.encodingError .protocolMismatch) rest
  | .ok (v, used) => if used ≠ l then .fail (.payloadLengthTooShort l used) rest else .ok (make v) rest

/-- The writes of a DTC payload (R214): in one piece, after the engine has computed it. -/
def writeDtc (c : Params) (table : Entries) (sub : Val) (snk : Bytes) : WriteResult :=
  match engineEncode (.union table) sub with
  | .error _ => .fail (.encodingError .protocolMismatch) snk
  | .ok bs => snkWrite c bs snk .ok

/-- `BUF` while a DECODE runs: the `L` staged payload bytes, once SrcRead has delivered them (R41, R213). -/
def stageDtc (payload : Bytes) (s : State) : State :=
  if s.cmd = some .decode ∧ s.l.toNat ≤ payload.length then { s with buf := payload.take s.l.toNat } else s

/-! ### ReadDTCInformation.req (R214) -/

/-- Decode(L) of R214. A request table that is not as R211 and R132 say is refused (DEDUCED,
notes/assumptions/15.md). -/
def decodeReadDtcReq (c : Params) (l : Nat) (payload : Bytes) : ReadResult Message :=
  if reqTableOk c.dtcReqTable then decodeDtc c.dtcReqTable .readDtcReq l payload else .refuse .tableIllFormed

/-- Encode(M) of R214. -/
def writeReadDtcReq (c : Params) : Message → Option (Bytes → WriteResult)
  | .readDtcReq sub =>
    some fun snk => if reqTableOk c.dtcReqTable then writeDtc c c.dtcReqTable sub snk else .refuse .tableIllFormed
  | _ => none

/-- ReadDTCInformation.req, SID 0x19. -/
def execReadDtcReq (payload : Bytes) (s : State) : Host.Outcome State Fault Refusal :=
  runTyped .readDtcReq decodeReadDtcReq writeReadDtcReq payload (stageDtc payload s)

/-! ### ReadDTCInformation.req, the code point ReportSupportedDTC (R211, R214) -/

/-- Encode(M) of R214 for the variant of index 0x0A. -/
def writeReportSupported (c : Params) : Message → Option (Bytes → WriteResult)
  | .readDtcReq (.variant index v) => if index = 0x0A then writeReadDtcReq c (.readDtcReq (.variant index v)) else none
  | _ => none

/-- ReadDTCInformation.req ReportSupportedDTC, SID 0x19, index 0x0A. -/
def execReadDtcReqReportSupported (rest : Bytes) (s : State) : Host.Outcome State Fault Refusal :=
  runTyped .readDtcReq decodeReadDtcReq writeReportSupported (0x0A :: rest) (stageDtc (0x0A :: rest) s)

/-! ### ReadDTCInformation.rsp (R215) -/

/-- Decode(L) of R215. A response table that is not well-formed is refused (R132). -/
def decodeReadDtcRsp (c : Params) (l : Nat) (payload : Bytes) : ReadResult Message :=
  if tableOk c.dtcRspTable then decodeDtc c.dtcRspTable .readDtcRsp l payload else .refuse .tableIllFormed

/-- Encode(M) of R215. -/
def writeReadDtcRsp (c : Params) : Message → Option (Bytes → WriteResult)
  | .readDtcRsp sub =>
    some fun snk => if tableOk c.dtcRspTable then writeDtc c c.dtcRspTable sub snk else .refuse .tableIllFormed
  | _ => none

/-- ReadDTCInformation.rsp, SID 0x59. -/
def execReadDtcRsp (payload : Bytes) (s : State) : Host.Outcome State Fault Refusal :=
  runTyped .readDtcRsp decodeReadDtcRsp writeReadDtcRsp payload (stageDtc payload s)

end Sys2Proof.Machine
end

