-- ==== Sys2Proof/Machine/FileTransfer.lean ====
section
/-! DEFINITION. RequestFileTransfer (46_request_file_transfer.md): one layout for both directions (R231), a kind row
and five mode rows for each (R109). -/

namespace Sys2Proof.Machine

/-- `CheckMode(mode)` while reading (R233). -/
def checkMode {α : Type} (mode : Byte) (bs : Bytes) (k : ReadResult α) : ReadResult α :=
  if legalMode mode then k else .fail (.encodingError .none) bs

/-- `CheckUtf8(path)` while reading (R234). -/
def checkUtf8 {α : Type} (path bs : Bytes) (k : ReadResult α) : ReadResult α :=
  if validUtf8 path then k else .fail (.encodingError .none) bs

/-- A check of Encode(M) that raises EncodingError (R233, R234, R236). -/
def requireOk (ok : Bool) (snk : Bytes) (k : WriteResult) : WriteResult :=
  if ok then k else .fail (.encodingError .none) snk

/-- The method byte, when the mode carries it (R230). -/
def readMethod (c : Params) (f : FileTransfer) (bs : Bytes)
    (k : FileTransfer → Bytes → ReadResult Message) : ReadResult Message :=
  if hasMethod c f.mode then
    readByte bs fun b rest => k { f with compression := (split b).1, encryption := (split b).2 } rest
  else k f bs

/-- The size group, when the mode carries it (R230): the width byte, the exact length, the two sizes. `n` is the
number of payload bytes up to and including the width byte. -/
def readSizes (c : Params) (l n : Nat) (f : FileTransfer) (bs : Bytes)
    (k : FileTransfer → Bytes → ReadResult Message) : ReadResult Message :=
  if hasSize c f.mode then
    readByte bs fun w rest =>
    checkWidth w.toNat rest <|
    checkExact l (n + 2 * w.toNat) rest <|
    readVar w.toNat rest fun sizeUncompressed rest =>
    readVar w.toNat rest fun sizeCompressed rest =>
    k { f with fsizeBytes := w, sizeUncompressed := sizeUncompressed, sizeCompressed := sizeCompressed } rest
  else k f bs

/-- The payload bytes up to the end of the method byte and of the width byte, those the mode carries (R230). -/
def fixedPart (c : Params) (mode : Byte) (pathLength : Nat) : Nat :=
  3 + pathLength + (if hasMethod c mode then 1 else 0) + (if hasSize c mode then 1 else 0)

/-- The length check that follows the path length (R230): a minimum when a size group follows, else exact. -/
def checkFixedPart {α : Type} (c : Params) (mode : Byte) (l n : Nat) (bs : Bytes) (k : ReadResult α) : ReadResult α :=
  if hasSize c mode then checkMin l n bs k else checkExact l n bs k

/-- Decode(L) of R230, filling the default fields (R29); those of a group the mode does not carry stay 0 (R237). -/
def decodeFileTransfer (make : FileTransfer → Message) (c : Params) (l : Nat) (payload : Bytes) :
    ReadResult Message :=
  checkMin l 3 payload <|
  readByte payload fun mode rest =>
  checkMode mode rest <|
  readU16 rest fun pathLength rest =>
  checkFixedPart c mode l (fixedPart c mode pathLength.toNat) rest <|
  srcRead pathLength.toNat rest fun path rest =>
  checkUtf8 path rest <|
  readMethod c { fileTransferDefault with mode := mode, path := path } rest fun f rest =>
  readSizes c l (fixedPart c mode pathLength.toNat) f rest fun f rest =>
  .ok (make f) rest

/-- The writes of the size group, when the mode carries it (R230). -/
def writeSizes (c : Params) (f : FileTransfer) (snk : Bytes) : WriteResult :=
  if hasSize c f.mode then
    requireWidth f.fsizeBytes.toNat snk <|
    writeByte c f.fsizeBytes snk fun snk =>
    writeVar c f.fsizeBytes.toNat f.sizeUncompressed snk fun snk =>
    writeVar c f.fsizeBytes.toNat f.sizeCompressed snk .ok
  else .ok snk

/-- The writes of the method byte, when the mode carries it, and of what follows it (R230). -/
def writeMethod (c : Params) (f : FileTransfer) (snk : Bytes) : WriteResult :=
  if hasMethod c f.mode then
    writeByte c (pack f.compression f.encryption) snk fun snk => writeSizes c f snk
  else writeSizes c f snk

/-- The payload writes of R230, with the checks of R236. -/
def writeFileTransfer (c : Params) (f : FileTransfer) (snk : Bytes) : WriteResult :=
  requireOk (legalMode f.mode) snk <|
  writeByte c f.mode snk fun snk =>
  requireOk (decide (f.path.length ≤ 65535)) snk <|
  requireOk (validUtf8 f.path) snk <|
  writeU16 c (BitVec.ofNat 16 f.path.length) snk fun snk =>
  snkWrite c f.path snk fun snk =>
  writeMethod c f snk

/-! ### RequestFileTransfer.req (R230) -/

/-- Decode(L) of R230. -/
def decodeFileTransferReq (c : Params) (l : Nat) (payload : Bytes) : ReadResult Message :=
  decodeFileTransfer .fileTransferReq c l payload

/-- Encode(M) of R230. -/
def writeFileTransferReq (c : Params) : Message → Option (Bytes → WriteResult)
  | .fileTransferReq f => some (writeFileTransfer c f)
  | _ => none

/-- Encode(M) of R230 for a message whose mode is the row's. -/
def writeFileTransferReqMode (mode : Byte) (c : Params) : Message → Option (Bytes → WriteResult)
  | .fileTransferReq f => if f.mode = mode then writeFileTransferReq c (.fileTransferReq f) else none
  | _ => none

/-- RequestFileTransfer.req, SID 0x38. -/
def execFileTransferReq (payload : Bytes) (s : State) : Host.Outcome State Fault Refusal :=
  runTyped .fileTransferReq decodeFileTransferReq writeFileTransferReq payload s

/-- RequestFileTransfer.req mode=add, SID 0x38, mode byte 1 (R95). -/
def execFileTransferReqAdd (rest : Bytes) (s : State) : Host.Outcome State Fault Refusal :=
  runTyped .fileTransferReq decodeFileTransferReq (writeFileTransferReqMode 1) (1 :: rest) s

/-- RequestFileTransfer.req mode=delete, SID 0x38, mode byte 2 (R95). -/
def execFileTransferReqDelete (rest : Bytes) (s : State) : Host.Outcome State Fault Refusal :=
  runTyped .fileTransferReq decodeFileTransferReq (writeFileTransferReqMode 2) (2 :: rest) s

/-- RequestFileTransfer.req mode=replace, SID 0x38, mode byte 3 (R95). -/
def execFileTransferReqReplace (rest : Bytes) (s : State) : Host.Outcome State Fault Refusal :=
  runTyped .fileTransferReq decodeFileTransferReq (writeFileTransferReqMode 3) (3 :: rest) s

/-- RequestFileTransfer.req mode=read-file, SID 0x38, mode byte 4 (R95). -/
def execFileTransferReqReadFile (rest : Bytes) (s : State) : Host.Outcome State Fault Refusal :=
  runTyped .fileTransferReq decodeFileTransferReq (writeFileTransferReqMode 4) (4 :: rest) s

/-- RequestFileTransfer.req mode=read-dir, SID 0x38, mode byte 5 (R95). -/
def execFileTransferReqReadDir (rest : Bytes) (s : State) : Host.Outcome State Fault Refusal :=
  runTyped .fileTransferReq decodeFileTransferReq (writeFileTransferReqMode 5) (5 :: rest) s

/-! ### RequestFileTransfer.rsp (R231) -/

/-- Decode(L) of R231. -/
def decodeFileTransferRsp (c : Params) (l : Nat) (payload : Bytes) : ReadResult Message :=
  decodeFileTransfer .fileTransferRsp c l payload

/-- Encode(M) of R231. -/
def writeFileTransferRsp (c : Params) : Message → Option (Bytes → WriteResult)
  | .fileTransferRsp f => some (writeFileTransfer c f)
  | _ => none

/-- Encode(M) of R231 for a message whose mode is the row's. -/
def writeFileTransferRspMode (mode : Byte) (c : Params) : Message → Option (Bytes → WriteResult)
  | .fileTransferRsp f => if f.mode = mode then writeFileTransferRsp c (.fileTransferRsp f) else none
  | _ => none

/-- RequestFileTransfer.rsp, SID 0x78. -/
def execFileTransferRsp (payload : Bytes) (s : State) : Host.Outcome State Fault Refusal :=
  runTyped .fileTransferRsp decodeFileTransferRsp writeFileTransferRsp payload s

/-- RequestFileTransfer.rsp mode=add, SID 0x78, mode byte 1 (R95). -/
def execFileTransferRspAdd (rest : Bytes) (s : State) : Host.Outcome State Fault Refusal :=
  runTyped .fileTransferRsp decodeFileTransferRsp (writeFileTransferRspMode 1) (1 :: rest) s

/-- RequestFileTransfer.rsp mode=delete, SID 0x78, mode byte 2 (R95). -/
def execFileTransferRspDelete (rest : Bytes) (s : State) : Host.Outcome State Fault Refusal :=
  runTyped .fileTransferRsp decodeFileTransferRsp (writeFileTransferRspMode 2) (2 :: rest) s

/-- RequestFileTransfer.rsp mode=replace, SID 0x78, mode byte 3 (R95). -/
def execFileTransferRspReplace (rest : Bytes) (s : State) : Host.Outcome State Fault Refusal :=
  runTyped .fileTransferRsp decodeFileTransferRsp (writeFileTransferRspMode 3) (3 :: rest) s

/-- RequestFileTransfer.rsp mode=read-file, SID 0x78, mode byte 4 (R95). -/
def execFileTransferRspReadFile (rest : Bytes) (s : State) : Host.Outcome State Fault Refusal :=
  runTyped .fileTransferRsp decodeFileTransferRsp (writeFileTransferRspMode 4) (4 :: rest) s

/-- RequestFileTransfer.rsp mode=read-dir, SID 0x78, mode byte 5 (R95). -/
def execFileTransferRspReadDir (rest : Bytes) (s : State) : Host.Outcome State Fault Refusal :=
  runTyped .fileTransferRsp decodeFileTransferRsp (writeFileTransferRspMode 5) (5 :: rest) s

end Sys2Proof.Machine
end

