-- ==== Sys2Proof/Machine/Negative.lean ====
section
/-! DEFINITION. NegativeResponse (48_negative_raw.md R250, R251). Both fields are opaque bytes. -/

namespace Sys2Proof.Machine

/-- Decode(L) of R250. -/
def decodeNegativeResponse (_ : Params) (l : Nat) (payload : Bytes) : ReadResult Message :=
  checkExact l 2 payload <|
  readByte payload fun faultedSid rest =>
  readByte rest fun code rest =>
  .ok (.negativeResponse faultedSid code) rest

/-- Encode(M) of R250. -/
def writeNegativeResponse (c : Params) : Message → Option (Bytes → WriteResult)
  | .negativeResponse faultedSid code =>
    some fun snk => writeByte c faultedSid snk fun snk => writeByte c code snk .ok
  | _ => none

/-- NegativeResponse, SID 0x7F. -/
def execNegativeResponse (payload : Bytes) (s : State) : Host.Outcome State Fault Refusal :=
  runTyped .negativeResponse decodeNegativeResponse writeNegativeResponse payload s

end Sys2Proof.Machine
end

