-- ==== Sys2Proof/Machine/Transfer.lean ====
section
/-! DEFINITION. TransferData and TransferExit (47_transfer.md). The sequence counter is a field of a message: the
block neither counts nor compares it (R246). -/

namespace Sys2Proof.Machine

/-! ### TransferData.req (R240) -/

/-- Decode(L) of R240. -/
def decodeTransferDataReq (c : Params) (l : Nat) (payload : Bytes) : ReadResult Message :=
  checkMin l 1 payload <|
  readByte payload fun seq rest =>
  readTrailing c (l - 1) rest fun data rest =>
  .ok (.transferDataReq seq data) rest

/-- Encode(M) of R240. -/
def writeTransferDataReq (c : Params) : Message → Option (Bytes → WriteResult)
  | .transferDataReq seq data => some fun snk => writeByte c seq snk fun snk => snkWrite c data snk .ok
  | _ => none

/-- TransferData.req, SID 0x36. -/
def execTransferDataReq (payload : Bytes) (s : State) : Host.Outcome State Fault Refusal :=
  runTyped .transferDataReq decodeTransferDataReq writeTransferDataReq payload s

/-! ### TransferData.rsp (R241) -/

/-- Decode(L) of R241. -/
def decodeTransferDataRsp (_ : Params) (l : Nat) (payload : Bytes) : ReadResult Message :=
  checkExact l 1 payload <|
  readByte payload fun seq rest =>
  .ok (.transferDataRsp seq) rest

/-- Encode(M) of R241. -/
def writeTransferDataRsp (c : Params) : Message → Option (Bytes → WriteResult)
  | .transferDataRsp seq => some fun snk => writeByte c seq snk .ok
  | _ => none

/-- TransferData.rsp, SID 0x76. -/
def execTransferDataRsp (payload : Bytes) (s : State) : Host.Outcome State Fault Refusal :=
  runTyped .transferDataRsp decodeTransferDataRsp writeTransferDataRsp payload s

/-! ### TransferExit.req (R242) -/

/-- The layout of R98: trailing data only, possibly empty. `CheckMin(L, 0)` never faults. -/
def decodeTransferExit (make : Bytes → Message) (c : Params) (l : Nat) (payload : Bytes) : ReadResult Message :=
  checkMin l 0 payload <|
  readTrailing c l payload fun data rest =>
  .ok (make data) rest

/-- Decode(L) of R242. -/
def decodeTransferExitReq (c : Params) (l : Nat) (payload : Bytes) : ReadResult Message :=
  decodeTransferExit .transferExitReq c l payload

/-- Encode(M) of R242. -/
def writeTransferExitReq (c : Params) : Message → Option (Bytes → WriteResult)
  | .transferExitReq data => some fun snk => snkWrite c data snk .ok
  | _ => none

/-- TransferExit.req, SID 0x37. -/
def execTransferExitReq (payload : Bytes) (s : State) : Host.Outcome State Fault Refusal :=
  runTyped .transferExitReq decodeTransferExitReq writeTransferExitReq payload s

/-! ### TransferExit.rsp (R243) -/

/-- Decode(L) of R243. -/
def decodeTransferExitRsp (c : Params) (l : Nat) (payload : Bytes) : ReadResult Message :=
  decodeTransferExit .transferExitRsp c l payload

/-- Encode(M) of R243. -/
def writeTransferExitRsp (c : Params) : Message → Option (Bytes → WriteResult)
  | .transferExitRsp data => some fun snk => snkWrite c data snk .ok
  | _ => none

/-- TransferExit.rsp, SID 0x77. -/
def execTransferExitRsp (payload : Bytes) (s : State) : Host.Outcome State Fault Refusal :=
  runTyped .transferExitRsp decodeTransferExitRsp writeTransferExitRsp payload s

end Sys2Proof.Machine
end

