-- ==== Sys2Proof/Machine/Raw.lean ====
section
/-! DEFINITION. Raw (48_negative_raw.md R252), the 16-way branch to the payload decoders and writes
(42_dispatch_framing.md R175), the commands as pure functions (R171), and the nested DECODE of UPGRADE (R182). -/

namespace Sys2Proof.Machine

/-- Decode(L, sid) of R252: every declared byte verbatim behind the SID as it was read. -/
def decodeRaw (sid : Byte) (c : Params) (l : Nat) (payload : Bytes) : ReadResult Message :=
  readTrailing c l payload fun more rest =>
  .ok (.raw (sid :: more)) rest

/-- Encode(M) of R252: the bytes as they are, no SID added (R180). -/
def writeRaw (c : Params) : Message → Option (Bytes → WriteResult)
  | .raw bytes => some fun snk => snkWrite c bytes snk .ok
  | _ => none

/-- `DecodePayload_K(L, sid)` (R175), by the instruction's row. -/
def decodePayload (c : Params) (l : Nat) : Instr → ReadResult Message
  | .readDidReq payload => decodeReadDidReq c l payload
  | .readDidRsp payload => decodeReadDidRsp c l payload
  | .writeDidReq payload => decodeWriteDidReq c l payload
  | .writeDidRsp payload => decodeWriteDidRsp c l payload
  | .readDtcReq payload => decodeReadDtcReq c l payload
  | .readDtcRsp payload => decodeReadDtcRsp c l payload
  | .readDtcReqReportSupported rest => decodeReadDtcReq c l (0x0A :: rest)
  | .requestDownloadReq payload => decodeRequestDownloadReq c l payload
  | .requestDownloadRsp payload => decodeRequestDownloadRsp c l payload
  | .fileTransferReq payload => decodeFileTransferReq c l payload
  | .fileTransferRsp payload => decodeFileTransferRsp c l payload
  | .fileTransferReqAdd rest => decodeFileTransferReq c l (1 :: rest)
  | .fileTransferReqDelete rest => decodeFileTransferReq c l (2 :: rest)
  | .fileTransferReqReplace rest => decodeFileTransferReq c l (3 :: rest)
  | .fileTransferReqReadFile rest => decodeFileTransferReq c l (4 :: rest)
  | .fileTransferReqReadDir rest => decodeFileTransferReq c l (5 :: rest)
  | .fileTransferRspAdd rest => decodeFileTransferRsp c l (1 :: rest)
  | .fileTransferRspDelete rest => decodeFileTransferRsp c l (2 :: rest)
  | .fileTransferRspReplace rest => decodeFileTransferRsp c l (3 :: rest)
  | .fileTransferRspReadFile rest => decodeFileTransferRsp c l (4 :: rest)
  | .fileTransferRspReadDir rest => decodeFileTransferRsp c l (5 :: rest)
  | .transferDataReq payload => decodeTransferDataReq c l payload
  | .transferDataRsp payload => decodeTransferDataRsp c l payload
  | .transferExitReq payload => decodeTransferExitReq c l payload
  | .transferExitRsp payload => decodeTransferExitRsp c l payload
  | .negativeResponse payload => decodeNegativeResponse c l payload
  | .raw sid payload => decodeRaw sid c l payload

/-- DECODE as a pure function of the source bytes and PLEN (R171, R172): the message, and the bytes of the first
PLEN that are not consumed. -/
def decodeMessage (c : Params) (src : Bytes) (plen : Nat) : ReadResult Message :=
  if plen = 0 then .fail (.payloadLengthTooShort 0 1) (memRead src 0 plen)
  else
    match decode (memRead src 0 plen) with
    | .error .noSid => .short []
    | .ok i => decodePayload c (plen - 1) i

/-- `EncodePayload_K(M)` (R178), by the message's kind. -/
def writePayload (c : Params) : Message → Option (Bytes → WriteResult)
  | .readDidReq did => writeReadDidReq c (.readDidReq did)
  | .readDidRsp did data => writeReadDidRsp c (.readDidRsp did data)
  | .writeDidReq did data => writeWriteDidReq c (.writeDidReq did data)
  | .writeDidRsp did => writeWriteDidRsp c (.writeDidRsp did)
  | .readDtcReq sub => writeReadDtcReq c (.readDtcReq sub)
  | .readDtcRsp sub => writeReadDtcRsp c (.readDtcRsp sub)
  | .requestDownloadReq f => writeRequestDownloadReq c (.requestDownloadReq f)
  | .requestDownloadRsp w v => writeRequestDownloadRsp c (.requestDownloadRsp w v)
  | .fileTransferReq f => writeFileTransferReq c (.fileTransferReq f)
  | .fileTransferRsp f => writeFileTransferRsp c (.fileTransferRsp f)
  | .transferDataReq seq data => writeTransferDataReq c (.transferDataReq seq data)
  | .transferDataRsp seq => writeTransferDataRsp c (.transferDataRsp seq)
  | .transferExitReq data => writeTransferExitReq c (.transferExitReq data)
  | .transferExitRsp data => writeTransferExitRsp c (.transferExitRsp data)
  | .negativeResponse faultedSid code => writeNegativeResponse c (.negativeResponse faultedSid code)
  | .raw bytes => writeRaw c (.raw bytes)

/-- ENCODE as a pure function of the message and the sink (R171, R178). -/
def encodeMessage (c : Params) (m : Message) (snk : Bytes) : WriteResult :=
  match writePayload c m with
  | none => .ok snk
  | some payload => writeFrame c m.kind payload snk

/-- UPGRADE (R182): a Raw is decoded again on a private source, with the length of its own bytes as the declared
length; the nested fault is dropped and the Raw returned. Nothing of the host's scratch state is touched (DEDUCED,
notes/assumptions/1.md). -/
def upgradeRaw (m : Message) (s : State) : Host.Outcome State Fault Refusal :=
  match m with
  | .raw bytes =>
    match decodeMessage s.params bytes bytes.length with
    | .ok typed _ => .next (finishUpgrade typed s)
    | .short _ => .next (finishUpgrade m s)
    | .fail _ _ => .next (finishUpgrade m s)
    | .refuse reason => .refused reason
  | m => .next (finishUpgrade m s)

/-- Raw, any of the 241 unmapped SIDs. -/
def execRaw (sid : Byte) (payload : Bytes) (s : State) : Host.Outcome State Fault Refusal :=
  runCommand (decodeRaw sid) (fun c m => (writeRaw c m).map (writeFrame c .raw)) upgradeRaw msgLen payload s

end Sys2Proof.Machine
end

