-- ==== Sys2Proof/Machine/Command.lean ====
section
/-! DEFINITION. What a move of the host does: its changes between commands (20_memory.md R50, R53,
70_reset_and_hazards.md R310, R317), and the entry of a command up to the instruction it runs
(42_dispatch_framing.md R172 steps 1 to 4, R178, R182, R184). -/

namespace Sys2Proof.Machine

/-- How the entry of a host move ends: the move is over, or an instruction is to run. -/
inductive Entry where
  | finished (s : State)
  | run (i : Instr) (s : State)
deriving DecidableEq, Repr

/-- The row of a message that a command reads from MSG. Its operand bytes are not on the wire, so it has none: only
DECODE reads an operand (DESIGN CHOICE, notes/assumptions/20.md). -/
def instrOfMessage : Message → Instr
  | .readDidReq _ => .readDidReq []
  | .readDidRsp _ _ => .readDidRsp []
  | .writeDidReq _ _ => .writeDidReq []
  | .writeDidRsp _ => .writeDidRsp []
  | .readDtcReq sub =>
    match sub with
    | .variant index _ => if index = 0x0A then .readDtcReqReportSupported [] else .readDtcReq []
    | _ => .readDtcReq []
  | .readDtcRsp _ => .readDtcRsp []
  | .requestDownloadReq _ => .requestDownloadReq []
  | .requestDownloadRsp _ _ => .requestDownloadRsp []
  | .fileTransferReq f => refineFileTransferReq (if legalMode f.mode then [f.mode] else [])
  | .fileTransferRsp f => refineFileTransferRsp (if legalMode f.mode then [f.mode] else [])
  | .transferDataReq _ _ => .transferDataReq []
  | .transferDataRsp _ => .transferDataRsp []
  | .transferExitReq _ => .transferExitReq []
  | .transferExitRsp _ => .transferExitRsp []
  | .negativeResponse _ _ => .negativeResponse []
  | .raw bytes => .raw (bytes.headD 0) bytes.tail

/-- What DECODE does before its first phase (R172): STATUS and ERR are cleared, MSG is unwritten, RPOS is 0. -/
def beginDecode (plen : Len) (s : State) : State :=
  { beginCommand .decode s with plen := plen, msg := none, rpos := 0 }

/-- The entry of DECODE (R172): `PLEN = 0` faults before any read, an absent SID is Io; else the phases up to PAYLOAD
run and the instruction is the one the bytes of the message are. -/
def enterDecode (plen : Len) (s : State) : Entry :=
  let begun := beginDecode plen s
  if plen = 0 then .finished (failDecode (.payloadLengthTooShort 0 1) 0 begun)
  else
    match decode begun.window with
    | .error .noSid => .finished (shortDecode 0 begun)
    | .ok i => .run i (dispatchPhases i.sid begun)

/-- What a command that reads a message does first: STATUS and ERR are cleared, and the message the host supplies as
the command's argument (R26) is loaded into MSG (R20, R21). PHASE is PAYLOAD as the row runs; for ENCODE of a Raw,
UPGRADE and LENGTH the spec names no phase (DESIGN CHOICE, notes/assumptions/23.md). -/
def beginMessage (cmd : Cmd) (m : Message) (s : State) : State :=
  { beginCommand cmd s with msg := some m, arg := some m, phase := .payload }

/-- The entry of a command that reads a message: the row of the message runs. -/
def enterWith (cmd : Cmd) (m : Message) (s : State) : Entry :=
  .run (instrOfMessage m) (beginMessage cmd m s)

/-- What a host move does. A source is never positioned past its end (DESIGN CHOICE, notes/assumptions/16.md). -/
def enterMove (move : HostMove) (s : State) : Entry :=
  match move with
  | .loadSource bytes => .finished { s with src := { bytes := bytes, pos := 0 } }
  | .seekSource pos => .finished { s with src := { s.src with pos := min pos s.src.bytes.length } }
  | .loadSink bytes => .finished { s with snk := bytes }
  | .drainSink count => .finished { s with snk := s.snk.drop count }
  | .cutSink keep => .finished { s with snk := s.snk.take keep }
  | .decode plen => enterDecode plen s
  | .encode m => enterWith .encode m s
  | .upgrade m => enterWith .upgrade m s
  | .length m => enterWith .length m s

/-- The host's next move is taken off its list. -/
def popMove (rest : List HostMove) (s : State) : State :=
  { s with host := rest }

/-- The state with one whole message placed where the next step decodes it: the source holds exactly the message, and
the host's next move is a DECODE that declares its length. -/
def placeMessage (bytes : Bytes) (s : State) : State :=
  { s with
    src := { bytes := bytes, pos := 0 }
    host := .decode (toLen bytes.length) :: s.host }

end Sys2Proof.Machine
end

