-- ==== Sys2Proof/Machine/Dispatch.lean ====
section
/-! DEFINITION. One arm per instruction: the 16-way branch of DECODE on the kind (42_dispatch_framing.md R175), by the
rows of the opcode table. -/

namespace Sys2Proof.Machine

def exec (i : Instr) (s : State) : Host.Outcome State Fault Refusal :=
  match i with
  | .readDidReq payload => Sys2Proof.Machine.execReadDidReq payload s
  | .readDidRsp payload => Sys2Proof.Machine.execReadDidRsp payload s
  | .writeDidReq payload => Sys2Proof.Machine.execWriteDidReq payload s
  | .writeDidRsp payload => Sys2Proof.Machine.execWriteDidRsp payload s
  | .readDtcReq payload => Sys2Proof.Machine.execReadDtcReq payload s
  | .readDtcRsp payload => Sys2Proof.Machine.execReadDtcRsp payload s
  | .readDtcReqReportSupported rest => Sys2Proof.Machine.execReadDtcReqReportSupported rest s
  | .requestDownloadReq payload => Sys2Proof.Machine.execRequestDownloadReq payload s
  | .requestDownloadRsp payload => Sys2Proof.Machine.execRequestDownloadRsp payload s
  | .fileTransferReq payload => Sys2Proof.Machine.execFileTransferReq payload s
  | .fileTransferRsp payload => Sys2Proof.Machine.execFileTransferRsp payload s
  | .fileTransferReqAdd rest => Sys2Proof.Machine.execFileTransferReqAdd rest s
  | .fileTransferReqDelete rest => Sys2Proof.Machine.execFileTransferReqDelete rest s
  | .fileTransferReqReplace rest => Sys2Proof.Machine.execFileTransferReqReplace rest s
  | .fileTransferReqReadFile rest => Sys2Proof.Machine.execFileTransferReqReadFile rest s
  | .fileTransferReqReadDir rest => Sys2Proof.Machine.execFileTransferReqReadDir rest s
  | .fileTransferRspAdd rest => Sys2Proof.Machine.execFileTransferRspAdd rest s
  | .fileTransferRspDelete rest => Sys2Proof.Machine.execFileTransferRspDelete rest s
  | .fileTransferRspReplace rest => Sys2Proof.Machine.execFileTransferRspReplace rest s
  | .fileTransferRspReadFile rest => Sys2Proof.Machine.execFileTransferRspReadFile rest s
  | .fileTransferRspReadDir rest => Sys2Proof.Machine.execFileTransferRspReadDir rest s
  | .transferDataReq payload => Sys2Proof.Machine.execTransferDataReq payload s
  | .transferDataRsp payload => Sys2Proof.Machine.execTransferDataRsp payload s
  | .transferExitReq payload => Sys2Proof.Machine.execTransferExitReq payload s
  | .transferExitRsp payload => Sys2Proof.Machine.execTransferExitRsp payload s
  | .negativeResponse payload => Sys2Proof.Machine.execNegativeResponse payload s
  | .raw sid payload => Sys2Proof.Machine.execRaw sid payload s

end Sys2Proof.Machine
end

