-- ==== Sys2Proof/Machine/Step.lean ====
section
/-! DEFINITION. One step: the host's next move, a command being one atomic transition (10_state.md R20;
notes/assumptions/1.md). With no move
left the block is idle and nothing happens (60_exceptions.md R285, 70_reset_and_hazards.md R301). -/

namespace Sys2Proof.Machine

def step (s : State) : Host.Outcome State Fault Refusal :=
  match s.host with
  | [] => .next s
  | move :: rest =>
    match enterMove move (popMove rest s) with
    | .finished t => .next t
    | .run i t => exec i t

/-- The instruction of a table word, every bit above `nbits` zero, placed where the very next step runs it: the source
holds exactly its bytes and the host's next move is a DECODE that declares their number
(notes/assumptions/4.md, 12.md). -/
def State.withFetchWord (s : State) (nbits w : Nat) : State :=
  placeMessage (tableMessage nbits w) s

end Sys2Proof.Machine
end

