-- ==== Sys2Proof/Safety.lean ====
section
/-! DEFINITION. What counts as a safe state and a safe run: the invariant every step keeps, and the parameters under
which no command is refused. -/

namespace Sys2Proof.Machine

/-- The parameters under which the spec gives every command a result: no allocation limit (R58), DTC tables as R132
and R211 say. -/
def supported (c : Params) : Bool :=
  c.maxAlloc.isNone && reqTableOk c.dtcReqTable && tableOk c.dtcRspTable

/-- A message as DECODE can return it: well-formed (R25), and a Raw begins with an unmapped SID (R183 (2)). -/
def decodable (c : Params) (m : Message) : Bool :=
  wfMessage c m &&
    match m with
    | .raw [] => false
    | .raw (sid :: _) => decide (sid ∉ mappedSids)
    | _ => true

/-- What holds between commands. -/
structure State.Inv (s : State) : Prop where
  /-- The dispatch state machine is back at IDLE (R31). -/
  idle : s.phase = .idle
  /-- ERR holds a fault exactly when STATUS says so (R37). -/
  errRecords : s.status = .fault ↔ s.err ≠ none
  /-- Only DECODE and ENCODE fault: UPGRADE and LENGTH always end OK (R39). -/
  faulting : s.status = .fault → s.cmd = some .decode ∨ s.cmd = some .encode
  /-- After a command that faulted MSG is unwritten (R26, R177). -/
  noPartialResult : s.status = .fault → s.msg = none
  /-- A failed ENCODE has left the host's message alone (R270). -/
  hostMessageKept : s.status = .fault → s.cmd = some .encode → s.arg ≠ none
  /-- After a DECODE that succeeded MSG holds a message that is well-formed (R25). -/
  decodedWellFormed :
    s.status = .ok → s.cmd = some .decode → ∃ m, s.msg = some m ∧ decodable s.params m = true
  /-- After a DECODE that succeeded exactly PLEN bytes have been consumed (R176). -/
  consumedExactly : s.status = .ok → s.cmd = some .decode → s.rpos = s.plen
  /-- The sink is within its capacity (R55). -/
  withinCapacity : ∀ cap, s.params.snkCap = some cap → s.snk.length ≤ cap
  /-- The sinks the host is still to supply are within the capacity: a sink holds no more than it accepts (R55). -/
  hostSinksFit : ∀ cap, s.params.snkCap = some cap → ∀ bytes, HostMove.loadSink bytes ∈ s.host → bytes.length ≤ cap
  /-- The source stands within its bytes (R50); the host's positioning sees to it (DESIGN CHOICE,
  notes/assumptions/16.md). -/
  withinSource : s.src.pos ≤ s.src.bytes.length

/-- A step that completes: neither a fault of the model nor a refusal. -/
def completes (s : State) : Prop :=
  ∃ t, step s = .next t

end Sys2Proof.Machine
end

