-- ==== Sys2Proof/Certificates/Slice0/Obligations.lean ====
section
/-! DEFINITION. The statements for the provers. `Sys2Proof.Stated` holds the vocabulary they are written in: the
formats of 30_encoding.md and the engine of 40_codec_engine.md written out a second time (bytes by their sum formulas,
the engine's decoding as rules over offsets, the groups of R232 as its table), and the record updates of the ends of
the commands written out field by field. -/

namespace Sys2Proof.Stated

open Sys2Proof.Machine

/-- The big-endian integer of R151, as its sum. -/
def bigEndian : Bytes → Nat
  | [] => 0
  | b :: bs => b.toNat * 256 ^ bs.length + bigEndian bs

/-- The `w` big-endian bytes of a value (R152): byte `i` is `(v >> (8 * (w-1-i))) AND 0xFF`. -/
def bytesOf (v w : Nat) : Bytes :=
  (List.range w).map fun i => BitVec.ofNat 8 (v / 256 ^ (w - 1 - i))

/-- The byte with two nibbles (R150). -/
def nibbles (high low : Nibble) : Byte := high ++ low

/-- The modes that carry the method byte (R232). Only the modes 1 to 5 are asked for. -/
def carriesMethod (c : Params) (mode : Byte) : Bool :=
  match mode.toNat with
  | 1 => true
  | 2 => c.rftDeleteHasMethod
  | 3 => true
  | 4 => false
  | 5 => false
  | _ => false

/-- The modes that carry the size group (R232). Only the modes 1 to 5 are asked for. -/
def carriesSize (c : Params) (mode : Byte) : Bool :=
  match mode.toNat with
  | 1 => true
  | 2 => false
  | 3 => true
  | 4 => c.rftReadHasSize
  | 5 => c.rftReadHasSize
  | _ => false

/-- The RequestFileTransfer fields with those of a group the mode does not carry set to 0 (R237). -/
def normalFile (c : Params) (f : FileTransfer) : FileTransfer :=
  { mode := f.mode
    path := f.path
    compression := if carriesMethod c f.mode then f.compression else 0
    encryption := if carriesMethod c f.mode then f.encryption else 0
    fsizeBytes := if carriesSize c f.mode then f.fsizeBytes else 0
    sizeUncompressed := if carriesSize c f.mode then f.sizeUncompressed else 0
    sizeCompressed := if carriesSize c f.mode then f.sizeCompressed else 0 }

/-- `Norm(M)` (R185): `normalFile` on RequestFileTransfer, the message itself on every other kind. -/
def normal (c : Params) : Message → Message
  | .fileTransferReq f => .fileTransferReq (normalFile c f)
  | .fileTransferRsp f => .fileTransferRsp (normalFile c f)
  | m => m

/-- The bytes of a RequestFileTransfer payload after the mode byte (R94, R96). -/
def fileTransferTail (c : Params) (f : FileTransfer) : Bytes :=
  bytesOf f.path.length 2 ++ f.path ++
    (if carriesMethod c f.mode then [nibbles f.compression f.encryption] else []) ++
    (if carriesSize c f.mode then
      f.fsizeBytes :: (bytesOf f.sizeUncompressed.toNat f.fsizeBytes.toNat ++
        bytesOf f.sizeCompressed.toNat f.fsizeBytes.toNat)
     else [])

/-! #### The Codec Engine a second time -/

mutual
/-- The bytes of an engine value (R123, R124, R126, R127): every integer at its full width, most significant byte
first; an index byte before the data of a variant; fields and elements in order, with nothing between them. -/
def valueBytes : Val → Bytes
  | .u8 v => bytesOf v.toNat 1
  | .u16 v => bytesOf v.toNat 2
  | .u32 v => bytesOf v.toNat 4
  | .unit => []
  | .record fields => valuesBytes fields
  | .variant index v => index :: valueBytes v
  | .seq elements => valuesBytes elements
  | .placeholder => []
/-- The bytes of several values, one after the other. -/
def valuesBytes : Vals → Bytes
  | .nil => []
  | .cons v vs => valueBytes v ++ valuesBytes vs
end

/-- The values of a record or a sequence as an ordinary list. -/
def valueList : Vals → List Val
  | .nil => []
  | .cons v vs => v :: valueList vs

/-- The width in bytes of an integer shape (R123). -/
def integerWidth : Shape → Option Nat
  | .u8 => some 1
  | .u16 => some 2
  | .u32 => some 4
  | _ => none

/-- The integer of a width in bytes. -/
def integerOf (width n : Nat) : Val :=
  if width = 1 then .u8 (BitVec.ofNat 8 n) else if width = 2 then .u16 (BitVec.ofNat 16 n) else .u32 (BitVec.ofNat 32 n)

mutual
/-- `Dec(S, buf, p)` as its rules (R123 to R128): what decoding the shape from offset `p` of the buffer gives, a value
and the offset after it, or one of the two failures. -/
inductive Reads : Shape → Bytes → Nat → Except EngineFail (Val × Nat) → Prop where
  /-- An integer whose bytes are there (R123). -/
  | integer {shape buf p n} : integerWidth shape = some n → p + n ≤ buf.length →
      Reads shape buf p (.ok (integerOf n (bigEndian ((buf.drop p).take n)), p + n))
  /-- An integer with fewer than its width left (R130). -/
  | integerShort {shape buf p n} : integerWidth shape = some n → buf.length < p + n →
      Reads shape buf p (.error .insufficientData)
  | unit {buf p} : Reads .unit buf p (.ok (.unit, p))
  | record {fields buf p vs q} : ReadsFields fields buf p (.ok (vs, q)) →
      Reads (.record fields) buf p (.ok (.record vs, q))
  | recordFails {fields buf p e} : ReadsFields fields buf p (.error e) → Reads (.record fields) buf p (.error e)
  /-- A union index with nothing left (R130). -/
  | unionShort {variants buf p} : buf.length ≤ p → Reads (.union variants) buf p (.error .insufficientData)
  /-- An index with no entry (R125). -/
  | unionNoEntry {variants buf p index} : buf[p]? = some index → variants.length ≤ index.toNat →
      Reads (.union variants) buf p (.error .protocolMismatch)
  | union {variants buf p index name shape v q} : buf[p]? = some index →
      variants.get? index.toNat = some (name, shape) → Reads shape buf (p + 1) (.ok (v, q)) →
      Reads (.union variants) buf p (.ok (.variant index v, q))
  | unionFails {variants buf p index name shape e} : buf[p]? = some index →
      variants.get? index.toNat = some (name, shape) → Reads shape buf (p + 1) (.error e) →
      Reads (.union variants) buf p (.error e)
  | seq {element buf p vs q} : ReadsElements element buf p (.ok (vs, q)) →
      Reads (.seq element) buf p (.ok (.seq vs, q))
  | seqFails {element buf p e} : ReadsElements element buf p (.error e) → Reads (.seq element) buf p (.error e)
  /-- An unsupported shape, once the walk reaches it (R128). -/
  | unsupported {what buf p} : Reads (.unsupported what) buf p (.error .protocolMismatch)
/-- The fields of a record in declaration order; the first failure is the record's (R126). -/
inductive ReadsFields : Entries → Bytes → Nat → Except EngineFail (Vals × Nat) → Prop where
  | none {buf p} : ReadsFields .nil buf p (.ok (.nil, p))
  | more {name shape fields buf p v q vs r} : Reads shape buf p (.ok (v, q)) →
      ReadsFields fields buf q (.ok (vs, r)) → ReadsFields (.cons name shape fields) buf p (.ok (.cons v vs, r))
  | firstFails {name shape fields buf p e} : Reads shape buf p (.error e) →
      ReadsFields (.cons name shape fields) buf p (.error e)
  | laterFails {name shape fields buf p v q e} : Reads shape buf p (.ok (v, q)) →
      ReadsFields fields buf q (.error e) → ReadsFields (.cons name shape fields) buf p (.error e)
/-- The elements of a sequence, greedily: an attempt that runs out ends it where that element began; a mismatch inside
an element is passed on (R127). -/
inductive ReadsElements : Shape → Bytes → Nat → Except EngineFail (Vals × Nat) → Prop where
  | ends {element buf p} : Reads element buf p (.error .insufficientData) →
      ReadsElements element buf p (.ok (.nil, p))
  | mismatch {element buf p} : Reads element buf p (.error .protocolMismatch) →
      ReadsElements element buf p (.error .protocolMismatch)
  | next {element buf p v q vs r} : Reads element buf p (.ok (v, q)) →
      ReadsElements element buf q (.ok (vs, r)) → ReadsElements element buf p (.ok (.cons v vs, r))
  | nextFails {element buf p v q e} : Reads element buf p (.ok (v, q)) →
      ReadsElements element buf q (.error e) → ReadsElements element buf p (.error e)
end

/-- Encoding the value by the shape reaches an unsupported shape (R128): through the entry a variant's index names, a
field, or an element. -/
inductive ReachesUnsupported : Shape → Val → Prop where
  | here {what v} : ReachesUnsupported (.unsupported what) v
  | variant {variants index name shape v} : variants.get? index.toNat = some (name, shape) →
      ReachesUnsupported shape v → ReachesUnsupported (.union variants) (.variant index v)
  | field {fields vs name shape v} {i : Nat} : fields.get? i = some (name, shape) → (valueList vs)[i]? = some v →
      ReachesUnsupported shape v → ReachesUnsupported (.record fields) (.record vs)
  | element {element vs v} : v ∈ valueList vs → ReachesUnsupported element v →
      ReachesUnsupported (.seq element) (.seq vs)

/-- ENCODE of the message reaches an unsupported shape: only a DTC value can (R178). -/
def meetsUnsupported (c : Params) : Message → Prop
  | .readDtcReq sub => ReachesUnsupported (.union c.dtcReqTable) sub
  | .readDtcRsp sub => ReachesUnsupported (.union c.dtcRspTable) sub
  | _ => False

/-! #### Messages -/

/-- The bytes of a message, by the formats of R86 to R100. -/
def wire (c : Params) : Message → Bytes
  | .readDidReq did => 0x22 :: bytesOf did.toNat 2
  | .readDidRsp did data => 0x62 :: (bytesOf did.toNat 2 ++ data)
  | .writeDidReq did data => 0x2E :: (bytesOf did.toNat 2 ++ data)
  | .writeDidRsp did => 0x6E :: bytesOf did.toNat 2
  | .readDtcReq sub => 0x19 :: valueBytes sub
  | .readDtcRsp sub => 0x59 :: valueBytes sub
  | .requestDownloadReq f =>
    0x34 :: nibbles f.compression f.encryption :: nibbles f.sizeBytes f.addrBytes ::
      (bytesOf f.address.toNat f.addrBytes.toNat ++ bytesOf f.size.toNat f.sizeBytes.toNat)
  | .requestDownloadRsp blockBytes maxBlockSize =>
    0x74 :: nibbles blockBytes 0 :: bytesOf maxBlockSize.toNat blockBytes.toNat
  | .fileTransferReq f => 0x38 :: f.mode :: fileTransferTail c f
  | .fileTransferRsp f => 0x78 :: f.mode :: fileTransferTail c f
  | .transferDataReq seq data => 0x36 :: seq :: data
  | .transferDataRsp seq => [0x76, seq]
  | .transferExitReq data => 0x37 :: data
  | .transferExitRsp data => 0x77 :: data
  | .negativeResponse faultedSid code => [0x7F, faultedSid, code]
  | .raw bytes => bytes

/-- The DTC table a message is read by, if any, is as R132 and R211 say. -/
def tablesOk (c : Params) : Message → Prop
  | .readDtcReq _ => reqTableOk c.dtcReqTable = true
  | .readDtcRsp _ => tableOk c.dtcRspTable = true
  | _ => True

/-- A trailing field of `n` bytes can be allocated (R58). -/
def allocates (c : Params) (n : Nat) : Prop :=
  ∀ most, c.maxAlloc = some most → n ≤ most

/-- `n` more bytes fit the sink (R55). -/
def hasRoom (s : State) (n : Nat) : Prop :=
  ∀ cap, s.params.snkCap = some cap → s.snk.length + n ≤ cap

/-- A DECODE that succeeds after `n` bytes of payload: exactly these registers change, no byte of the source and no
byte of the sink does. -/
def decoded (m : Message) (n : Nat) (s : State) : State :=
  { s with
    msg := some m
    status := .ok
    err := none
    rpos := BitVec.ofNat 32 (s.rpos.toNat + n)
    phase := .idle
    src := { bytes := s.src.bytes, pos := s.src.pos + (s.rpos.toNat + n) } }

/-- The state in which DECODE of `plen` runs its payload decoder, for the SID read (R172). -/
def dispatched (plen : Len) (sid : Byte) (rest : List HostMove) (s : State) : State :=
  { s with
    host := rest
    cmd := some .decode
    plen := plen
    msg := none
    arg := none
    status := .ok
    err := none
    lengthOut := none
    rpos := 1
    phase := .payload
    dir := if sid.getLsbD 6 then .response else .request
    fam := familyOf (sid &&& 0xBF) (if sid.getLsbD 6 then .response else .request)
    l := plen - 1 }

/-- The state in which ENCODE, UPGRADE or LENGTH runs the row of its message (R178, R182, R184). -/
def loaded (cmd : Cmd) (m : Message) (rest : List HostMove) (s : State) : State :=
  { s with
    host := rest
    cmd := some cmd
    msg := some m
    arg := some m
    status := .ok
    err := none
    lengthOut := none
    phase := .payload }

/-- The bytes the source still holds. -/
def remaining (s : State) : Bytes := s.src.bytes.drop s.src.pos

/-- The host's next move is a DECODE of `plen`, and the source's next byte is `sid`. -/
def decodeStarts (s : State) (plen : Len) (sid : Byte) : Prop :=
  ∃ rest more, s.host = .decode plen :: rest ∧ remaining s = sid :: more ∧ plen ≠ 0

/-- The step is a DECODE that ends in this fault (R177, R270): MSG is unwritten, ERR holds the record, and of the
source at least `read` and at most PLEN bytes have been taken, none changed (R69); the sink is untouched. -/
def decodeFaults (s : State) (plen : Len) (kind : ErrKind) (cause : Cause) (value expected : Option Nat)
    (read : Nat) : Prop :=
  ∃ t e, step s = .next t ∧ t.status = .fault ∧ t.msg = none ∧ t.phase = .idle ∧
    t.err = some e ∧ e.kind = kind ∧ e.cause = cause ∧
    e.value = value.map (BitVec.ofNat 32) ∧ e.expected = expected.map (BitVec.ofNat 32) ∧
    t.src.bytes = s.src.bytes ∧ s.src.pos + read ≤ t.src.pos ∧ t.src.pos ≤ s.src.pos + plen.toNat ∧
    t.snk = s.snk ∧ t.params = s.params

/-- The DECODE ends in Io without a cause, and the source is at its end (R52, R69). -/
def endsInIo (s : State) (plen : Len) (read : Nat) : Prop :=
  decodeFaults s plen .io .none none none read ∧ ∀ t, step s = .next t → t.src.pos = s.src.bytes.length

/-- What the host can observe of a step: MSG, ERR, STATUS, the number of LENGTH, and the two streams. -/
def observe : Host.Outcome State Fault Refusal →
    Host.Outcome (Option Message × Option ErrRecord × Status × Option Nat × Source × Bytes) Fault Refusal
  | .next t => .next (t.msg, t.err, t.status, t.lengthOut, t.src, t.snk)
  | .fault f => .fault f
  | .refused r => .refused r

/-- A host move that gives the host its hand on the sink. -/
def touchesSink : HostMove → Bool
  | .loadSource _ => false
  | .seekSource _ => false
  | .loadSink _ => true
  | .drainSink _ => true
  | .cutSink _ => true
  | .decode _ => false
  | .encode _ => false
  | .upgrade _ => false
  | .length _ => false

/-- A host move that starts a command. -/
def startsCommand : HostMove → Bool
  | .loadSource _ => false
  | .seekSource _ => false
  | .loadSink _ => false
  | .drainSink _ => false
  | .cutSink _ => false
  | .decode _ => true
  | .encode _ => true
  | .upgrade _ => true
  | .length _ => true

/-- A message whose encoding DECODE would read as a message of its own kind (R185): typed, or a Raw that begins with
an unmapped SID. -/
def decodesBack : Message → Prop
  | .raw bytes => ∃ sid more, bytes = sid :: more ∧ sid ∉ mappedSids
  | _ => True

/-- The fault of a value of a declared width: the width first, then the value (R153, R156). -/
def widthFault (w : Nat) : Option (ErrKind × Option Nat) :=
  if w = 1 ∨ w = 2 ∨ w = 4 then none else some (.unexpectedPayloadType, some w)

/-- The fault of a value that does not fit its width (R156). -/
def valueFault (w : Nat) (v : Word) : Option (ErrKind × Option Nat) :=
  if v.toNat < 256 ^ w then none else some (.encodingError, none)

/-- The fault of the first ill-formed RequestFileTransfer field: mode, path, then the size group the mode carries. -/
def firstIllFormedFile (c : Params) (f : FileTransfer) : Option (ErrKind × Option Nat) :=
  if f.mode.toNat < 1 ∨ 5 < f.mode.toNat ∨ 65535 < f.path.length ∨ validUtf8 f.path = false then
    some (.encodingError, none)
  else if carriesSize c f.mode then
    (widthFault f.fsizeBytes.toNat).or <|
      (valueFault f.fsizeBytes.toNat f.sizeUncompressed).or (valueFault f.fsizeBytes.toNat f.sizeCompressed)
  else none

/-- The fault of the first ill-formed field of a message in wire order, with the width it records (R181); the DTC
values are the engine's. -/
def firstIllFormed (c : Params) : Message → Option (ErrKind × Option Nat)
  | .requestDownloadReq f =>
    (widthFault f.addrBytes.toNat).or <| (widthFault f.sizeBytes.toNat).or <|
      (valueFault f.addrBytes.toNat f.address).or (valueFault f.sizeBytes.toNat f.size)
  | .requestDownloadRsp blockBytes maxBlockSize =>
    (widthFault blockBytes.toNat).or (valueFault blockBytes.toNat maxBlockSize)
  | .fileTransferReq f => firstIllFormedFile c f
  | .fileTransferRsp f => firstIllFormedFile c f
  | _ => none

/-- `WF(M)` (R25): no field is ill-formed, and a DTC value is a value of its table's union (R121). -/
def wellFormed (c : Params) (m : Message) : Prop :=
  firstIllFormed c m = none ∧
    match m with
    | .readDtcReq sub => hasShape (.union c.dtcReqTable) sub = true
    | .readDtcRsp sub => hasShape (.union c.dtcRspTable) sub = true
    | _ => True

/-- A continuation byte, `80..BF`. -/
def continuation (b : Byte) : Prop := 0x80 ≤ b.toNat ∧ b.toNat ≤ 0xBF

/-- The sequences of the table of R235, by their number of bytes. -/
def utf8Sequence : Bytes → Prop
  | [a] => a.toNat ≤ 0x7F
  | [a, b] => 0xC2 ≤ a.toNat ∧ a.toNat ≤ 0xDF ∧ continuation b
  | [a, b, c] =>
    (a = 0xE0 ∧ 0xA0 ≤ b.toNat ∧ b.toNat ≤ 0xBF ∨
      ((0xE1 ≤ a.toNat ∧ a.toNat ≤ 0xEC) ∨ a = 0xEE ∨ a = 0xEF) ∧ continuation b ∨
      a = 0xED ∧ 0x80 ≤ b.toNat ∧ b.toNat ≤ 0x9F) ∧ continuation c
  | [a, b, c, d] =>
    (a = 0xF0 ∧ 0x90 ≤ b.toNat ∧ b.toNat ≤ 0xBF ∨
      (a = 0xF1 ∨ a = 0xF2 ∨ a = 0xF3) ∧ continuation b ∨
      a = 0xF4 ∧ 0x80 ≤ b.toNat ∧ b.toNat ≤ 0x8F) ∧ continuation c ∧ continuation d
  | _ => False

end Sys2Proof.Stated

open Sys2Proof Sys2Proof.Machine Sys2Proof.Stated

/-! ### Encoding -/

/-- A few words of 95_test_vectors.md and what they decode to (R82, R109). -/
def Obligations.TableWordsDecode : Prop :=
  decode [0x22, 0xF1, 0x90] = .ok (.readDidReq [0xF1, 0x90]) ∧
  decode [0x19, 0x0A] = .ok (.readDtcReqReportSupported []) ∧
  decode [0x38, 0x02, 0x00, 0x01, 0x78, 0x00] = .ok (.fileTransferReqDelete [0x00, 0x01, 0x78, 0x00]) ∧
  decode [0x38, 0x06, 0x00, 0x00] = .ok (.fileTransferReq [0x06, 0x00, 0x00]) ∧
  decode [0x7F, 0x34, 0x10] = .ok (.negativeResponse [0x34, 0x10]) ∧
  decode [0x3F, 0x34, 0x10] = .ok (.raw 0x3F [0x34, 0x10])

/-- Decoding the bytes of a well-formed instruction gives the instruction, for every row and every operand. -/
def Obligations.DecodeInvertsEncode : Prop :=
  ∀ i : Instr, i.wf = true → decode (encode i) = .ok i

/-- Every non-empty byte string is one well-formed instruction, and no bit of it is dropped (R82, R103: the lookup
never fails, and an unmapped SID is a Raw). -/
def Obligations.EveryStringIsOneInstruction : Prop :=
  ∀ (sid : Byte) (more : Bytes), ∃ i, decode (sid :: more) = .ok i ∧ i.wf = true ∧ encode i = sid :: more ∧
    ∀ j : Instr, j.wf = true → encode j = sid :: more → j = i

/-- R110: 15 typed kinds with 15 different SIDs; a SID selects a kind exactly when it is that kind's SID, and every
other SID selects Raw. -/
def Obligations.SidsAndKindsCorrespond : Prop :=
  (∀ (sid : Byte) (k : Kind), k ≠ .raw → (kindOfSid sid = k ↔ sidOf k = some sid)) ∧
  (∀ sid : Byte, kindOfSid sid = .raw ↔ sid ∉ mappedSids) ∧
  mappedSids.length = 15 ∧ mappedSids.Nodup

/-! ### Field primitives -/

/-- R150: Split and Pack are inverse, the first-named nibble the high one. -/
def Obligations.SplitPackInverse : Prop :=
  (∀ high low : Nibble, split (pack high low) = (high, low) ∧ pack high low = nibbles high low) ∧
  (∀ b : Byte, pack (split b).1 (split b).2 = b)

/-- R151, R152: `be` and `bytes_be` are the sum and the bytes those rules give, and each inverts the other. -/
def Obligations.BigEndianInverse : Prop :=
  (∀ bs : Bytes, be bs = bigEndian bs ∧ be bs < 256 ^ bs.length ∧ bytesBe (be bs) bs.length = bs) ∧
  (∀ v n : Nat, bytesBe v n = bytesOf v n ∧ (v < 256 ^ n → be (bytesBe v n) = v))

/-- R162: writing a value at a legal width it fits and reading it back gives the value; reading bytes of a legal width
and writing the value gives the bytes. -/
def Obligations.VariableWidthRoundTrip : Prop :=
  (∀ (c : Params) (w : Nat) (v : Word) (snk tail : Bytes), (w = 1 ∨ w = 2 ∨ w = 4) → v.toNat < 256 ^ w →
    c.snkCap = none →
    ∃ bs, writeVar c w v snk .ok = .ok (snk ++ bs) ∧ bs.length = w ∧
      ∀ (k : Word → Bytes → ReadResult Message), readVar w (bs ++ tail) k = k v tail) ∧
  (∀ (c : Params) (bs tail snk : Bytes), (bs.length = 1 ∨ bs.length = 2 ∨ bs.length = 4) → c.snkCap = none →
    ∃ v : Word, (∀ (k : Word → Bytes → ReadResult Message), readVar bs.length (bs ++ tail) k = k v tail) ∧
      writeVar c bs.length v snk .ok = .ok (snk ++ bs))

/-- R161, R154, R155: the fixed 16-bit field and the variable-width field, read and written, with their faults in their
order: the width, then (writing) the fit, then the stream. -/
def Obligations.FieldPrimitives : Prop :=
  (∀ (c : Params) (v : Half) (snk : Bytes) (k : Bytes → WriteResult),
    writeU16 c v snk k = snkWrite c [v.extractLsb' 8 8, v.extractLsb' 0 8] snk k) ∧
  (∀ (high low : Byte) (bs : Bytes) (k : Half → Bytes → ReadResult Message),
    readU16 (high :: low :: bs) k = k (high ++ low) bs) ∧
  (∀ (bs : Bytes) (k : Half → Bytes → ReadResult Message), bs.length < 2 → readU16 bs k = .short bs) ∧
  (∀ (w : Nat) (bs : Bytes) (k : Word → Bytes → ReadResult Message),
    readVar w bs k =
      if ¬ (w = 1 ∨ w = 2 ∨ w = 4) then .fail (.unexpectedPayloadType w) bs
      else if bs.length < w then .short bs
      else k (BitVec.ofNat 32 (bigEndian (bs.take w))) (bs.drop w)) ∧
  (∀ (c : Params) (w : Nat) (v : Word) (snk : Bytes) (k : Bytes → WriteResult),
    writeVar c w v snk k =
      if ¬ (w = 1 ∨ w = 2 ∨ w = 4) then .fail (.unexpectedPayloadType w) snk
      else if 256 ^ w ≤ v.toNat then .fail (.encodingError .none) snk
      else snkWrite c (bytesOf v.toNat w) snk k)

/-- R234, R235: a path passes the check exactly when it is a concatenation of sequences of the table. -/
def Obligations.Utf8IsTheTable : Prop :=
  ∀ bs : Bytes, validUtf8 bs = true ↔ ∃ seqs : List Bytes, bs = seqs.flatten ∧ ∀ q ∈ seqs, utf8Sequence q

/-! ### The Codec Engine -/

/-- R133, R123 to R127, R129: for a well-formed table, a value of its union is encoded as the bytes the rules give, and
decoded from them with its length, exactly when it meets no unsupported shape. That the attempt that ends a sequence
can meet one too is the model's reading (DEDUCED, notes/assumptions/11.md). -/
def Obligations.EngineDecodeInvertsEncode : Prop :=
  ∀ (table : Entries) (v : Val), tableOk table = true → hasShape (.union table) v = true →
    (meetsNoUnsupported (.union table) v = true ↔
      engineEncode (.union table) v = .ok (valueBytes v) ∧
        engineDecode (.union table) (valueBytes v) 0 = .ok (v, engineLen (.union table) v)) ∧
    (meetsNoUnsupported (.union table) v = true → engineLen (.union table) v = (valueBytes v).length)

/-- R134: for a well-formed table, a buffer that decodes with every byte used is what its value encodes to. -/
def Obligations.EngineEncodeInvertsDecode : Prop :=
  ∀ (table : Entries) (buf : Bytes) (v : Val), tableOk table = true →
    engineDecode (.union table) buf 0 = .ok (v, buf.length) → engineEncode (.union table) v = .ok buf

/-- R122 to R128, R130, R135: for a well-formed table and every buffer the engine decodes by the rules `Reads` writes
out and by nothing else, so that each value, and each of the two failures, arises exactly where they say. R121, R130:
what is decoded is a value of the shape, and it is built from bytes that are there: the bytes used are the value's own,
the first of the buffer. -/
def Obligations.EngineDecodesValuesOfTheShape : Prop :=
  (∀ (table : Entries) (buf : Bytes) (r : Except EngineFail (Val × Nat)), tableOk table = true →
    (engineDecode (.union table) buf 0 = r ↔ Reads (.union table) buf 0 r)) ∧
  (∀ (table : Entries) (buf : Bytes) (v : Val) (used : Nat),
    engineDecode (.union table) buf 0 = .ok (v, used) →
    hasShape (.union table) v = true ∧ used ≤ buf.length ∧ valueBytes v = buf.take used ∧
      engineEncode (.union table) v = .ok (buf.take used) ∧ used = engineLen (.union table) v)

/-! ### DECODE, kind by kind: the instruction completes and MSG holds the fields of the format -/

/-- R200, R203: the DID layout. -/
def Obligations.DidLayoutDecodes : Prop :=
  ∀ (s : State) (high low : Byte) (rest : Bytes), s.cmd = some .decode → s.l = 2 →
    exec (.readDidReq (high :: low :: rest)) s = .next (decoded (.readDidReq (high ++ low)) 2 s) ∧
    exec (.writeDidRsp (high :: low :: rest)) s = .next (decoded (.writeDidRsp (high ++ low)) 2 s)

/-- R201, R202: the DID+DATA layout, the data taking every declared byte that remains. -/
def Obligations.DidDataLayoutDecodes : Prop :=
  ∀ (s : State) (high low : Byte) (data rest : Bytes), s.cmd = some .decode → s.l.toNat = 2 + data.length →
    allocates s.params data.length →
    exec (.readDidRsp (high :: low :: (data ++ rest))) s =
      .next (decoded (.readDidRsp (high ++ low) data) (2 + data.length) s) ∧
    exec (.writeDidReq (high :: low :: (data ++ rest))) s =
      .next (decoded (.writeDidReq (high ++ low) data) (2 + data.length) s)

/-- R240, R241: TransferData. -/
def Obligations.TransferDataDecodes : Prop :=
  (∀ (s : State) (seq : Byte) (data rest : Bytes), s.cmd = some .decode → s.l.toNat = 1 + data.length →
    allocates s.params data.length →
    exec (.transferDataReq (seq :: (data ++ rest))) s =
      .next (decoded (.transferDataReq seq data) (1 + data.length) s)) ∧
  (∀ (s : State) (seq : Byte) (rest : Bytes), s.cmd = some .decode → s.l = 1 →
    exec (.transferDataRsp (seq :: rest)) s = .next (decoded (.transferDataRsp seq) 1 s))

/-- R242, R243: TransferExit, trailing data only, possibly empty. -/
def Obligations.TransferExitDecodes : Prop :=
  ∀ (s : State) (data rest : Bytes), s.cmd = some .decode → s.l.toNat = data.length →
    allocates s.params data.length →
    exec (.transferExitReq (data ++ rest)) s = .next (decoded (.transferExitReq data) data.length s) ∧
    exec (.transferExitRsp (data ++ rest)) s = .next (decoded (.transferExitRsp data) data.length s)

/-- R250: NegativeResponse, both bytes opaque. -/
def Obligations.NegativeResponseDecodes : Prop :=
  ∀ (s : State) (faultedSid code : Byte) (rest : Bytes), s.cmd = some .decode → s.l = 2 →
    exec (.negativeResponse (faultedSid :: code :: rest)) s =
      .next (decoded (.negativeResponse faultedSid code) 2 s)

/-- R252: Raw keeps the SID as it was read and every declared byte after it. -/
def Obligations.RawDecodes : Prop :=
  ∀ (s : State) (sid : Byte) (data rest : Bytes), s.cmd = some .decode → s.l.toNat = data.length →
    allocates s.params data.length →
    exec (.raw sid (data ++ rest)) s = .next (decoded (.raw (sid :: data)) data.length s)

/-- R220, R91, R92: RequestDownload.req; the low nibble of the descriptor is the width of the address, which comes
first, the high nibble that of the size. -/
def Obligations.RequestDownloadReqDecodes : Prop :=
  ∀ (s : State) (compression encryption : Nibble) (address size rest : Bytes), s.cmd = some .decode →
    (address.length = 1 ∨ address.length = 2 ∨ address.length = 4) →
    (size.length = 1 ∨ size.length = 2 ∨ size.length = 4) →
    s.l.toNat = 2 + address.length + size.length →
    exec (.requestDownloadReq (nibbles compression encryption ::
        nibbles (BitVec.ofNat 4 size.length) (BitVec.ofNat 4 address.length) :: (address ++ size ++ rest))) s =
      .next (decoded (.requestDownloadReq
        { compression := compression
          encryption := encryption
          addrBytes := BitVec.ofNat 4 address.length
          sizeBytes := BitVec.ofNat 4 size.length
          address := BitVec.ofNat 32 (bigEndian address)
          size := BitVec.ofNat 32 (bigEndian size) }) (2 + address.length + size.length) s)

/-- R222, R223: RequestDownload.rsp; a nonzero low nibble is dropped unless `RD_RSP_LOW_NIBBLE` is `reject`. -/
def Obligations.RequestDownloadRspDecodes : Prop :=
  ∀ (s : State) (low : Nibble) (value rest : Bytes), s.cmd = some .decode →
    (value.length = 1 ∨ value.length = 2 ∨ value.length = 4) → s.l.toNat = 1 + value.length →
    (s.params.rdRspLowNibble = .ignore ∨ low = 0) →
    exec (.requestDownloadRsp (nibbles (BitVec.ofNat 4 value.length) low :: (value ++ rest))) s =
      .next (decoded (.requestDownloadRsp (BitVec.ofNat 4 value.length) (BitVec.ofNat 32 (bigEndian value)))
        (1 + value.length) s)

/-- R230, R231, R237: RequestFileTransfer in both directions and all five modes. Of the legal field values, those of a
group the mode does not carry are 0; the payload is the mode byte and the tail of R94. -/
def Obligations.FileTransferDecodes : Prop :=
  ∀ (s : State) (f : FileTransfer) (rest : Bytes), s.cmd = some .decode →
    firstIllFormedFile s.params f = none → normalFile s.params f = f →
    s.l.toNat = 1 + (fileTransferTail s.params f).length →
    let tail := fileTransferTail s.params f ++ rest
    let req := Host.Outcome.next (decoded (.fileTransferReq f) s.l.toNat s)
    let rsp := Host.Outcome.next (decoded (.fileTransferRsp f) s.l.toNat s)
    exec (.fileTransferReq (f.mode :: tail)) s = req ∧ exec (.fileTransferRsp (f.mode :: tail)) s = rsp ∧
    (f.mode = 1 → exec (.fileTransferReqAdd tail) s = req ∧ exec (.fileTransferRspAdd tail) s = rsp) ∧
    (f.mode = 2 → exec (.fileTransferReqDelete tail) s = req ∧ exec (.fileTransferRspDelete tail) s = rsp) ∧
    (f.mode = 3 → exec (.fileTransferReqReplace tail) s = req ∧ exec (.fileTransferRspReplace tail) s = rsp) ∧
    (f.mode = 4 → exec (.fileTransferReqReadFile tail) s = req ∧ exec (.fileTransferRspReadFile tail) s = rsp) ∧
    (f.mode = 5 → exec (.fileTransferReqReadDir tail) s = req ∧ exec (.fileTransferRspReadDir tail) s = rsp)

/-- R213 to R215: a DTC payload the engine reads with every byte used; BUF holds the staged bytes. -/
def Obligations.DtcDecodes : Prop :=
  ∀ (s : State) (v : Val) (buf rest : Bytes), s.cmd = some .decode → s.l.toNat = buf.length →
    (reqTableOk s.params.dtcReqTable = true →
      engineDecode (.union s.params.dtcReqTable) buf 0 = .ok (v, buf.length) →
      exec (.readDtcReq (buf ++ rest)) s = .next (decoded (.readDtcReq v) buf.length { s with buf := buf })) ∧
    (tableOk s.params.dtcRspTable = true →
      engineDecode (.union s.params.dtcRspTable) buf 0 = .ok (v, buf.length) →
      exec (.readDtcRsp (buf ++ rest)) s = .next (decoded (.readDtcRsp v) buf.length { s with buf := buf }))

/-- R211, R214: under every request table that meets R211, the index byte 0x0A alone is ReportSupportedDTC, and one
byte more is left over and faults. -/
def Obligations.ReportSupportedDecodes : Prop :=
  (∀ (s : State) (rest : Bytes), s.cmd = some .decode → reqTableOk s.params.dtcReqTable = true → s.l = 1 →
    exec (.readDtcReqReportSupported rest) s =
      .next (decoded (.readDtcReq (.variant 0x0A .unit)) 1 { s with buf := [0x0A] })) ∧
  (∀ (s : State) (extra : Bytes) (plen : Len), reqTableOk s.params.dtcReqTable = true →
    decodeStarts s plen 0x19 → remaining s = 0x19 :: 0x0A :: extra → 2 < plen.toNat → plen.toNat ≤ 2 + extra.length →
    decodeFaults s plen .payloadLengthTooShort .none (some (plen.toNat - 1)) (some 1) plen.toNat)

/-! ### DECODE as a command: dispatch, consumption, faults -/

/-- A step runs the instruction: for DECODE the one the bytes of the message decode to, in the state the dispatch
phases leave (R172 to R175); for ENCODE, UPGRADE and LENGTH the row of the message the host supplies, in the state with
CMD set, MSG the message, STATUS OK and ERR empty (R178, R182, R273). What else these states fix is the model's own:
the host's moves stand in a list and a row run on a message has no operand (DESIGN CHOICE, notes/assumptions/4.md,
20.md), the length register is cleared (DESIGN CHOICE, 8.md), the message argument has a field of its own (DEDUCED,
13.md), and PHASE is PAYLOAD while ENCODE of a Raw, UPGRADE and LENGTH run (DESIGN CHOICE, 23.md). -/
def Obligations.StepRunsTheDecodedInstruction : Prop :=
  (∀ (s : State) (plen : Len) (rest : List HostMove) (i : Instr), s.host = .decode plen :: rest → plen ≠ 0 →
    decode ((remaining s).take plen.toNat) = .ok i → i.wf = true →
    step s = exec i (dispatched plen i.sid rest s)) ∧
  (∀ (s : State) (m : Message) (rest : List HostMove),
    (s.host = .encode m :: rest → step s = exec (instrOfMessage m) (loaded .encode m rest s)) ∧
    (s.host = .upgrade m :: rest → step s = exec (instrOfMessage m) (loaded .upgrade m rest s)) ∧
    (s.host = .length m :: rest → step s = exec (instrOfMessage m) (loaded .length m rest s)))

/-- R176, R57: a DECODE that succeeds has consumed exactly PLEN bytes, which were there; the bytes after them stay. -/
def Obligations.DecodeConsumesExactly : Prop :=
  ∀ (s t : State) (plen : Len) (rest : List HostMove), s.host = .decode plen :: rest → step s = .next t →
    t.status = .ok →
    t.rpos = plen ∧ t.src.bytes = s.src.bytes ∧ t.src.pos = s.src.pos + plen.toNat ∧
      plen.toNat ≤ (remaining s).length ∧ remaining t = (remaining s).drop plen.toNat ∧ t.snk = s.snk

/-- R177, R69: a DECODE that faults returns no message, records its fault, and has taken at most PLEN bytes, none of
which changed. That the length register is cleared and that the host's later moves stand in a list are the model's
choices (DESIGN CHOICE, notes/assumptions/8.md, 4.md). -/
def Obligations.DecodeFaultReturnsNoMessage : Prop :=
  ∀ (s t : State) (plen : Len) (rest : List HostMove), s.host = .decode plen :: rest → step s = .next t →
    t.status = .fault →
    t.msg = none ∧ t.err ≠ none ∧ t.phase = .idle ∧ t.host = rest ∧ t.snk = s.snk ∧ t.params = s.params ∧
      t.cmd = some .decode ∧ t.plen = plen ∧ t.lengthOut = none ∧ t.src.bytes = s.src.bytes ∧
      (s.src.pos ≤ s.src.bytes.length → s.src.pos ≤ t.src.pos ∧ t.src.pos ≤ s.src.pos + plen.toNat)

/-- R172: a declared length of 0 faults before any byte is read. -/
def Obligations.ZeroLengthFaultsFirst : Prop :=
  ∀ (s : State) (rest : List HostMove), s.host = .decode 0 :: rest →
    decodeFaults s 0 .payloadLengthTooShort .none (some 0) (some 1) 0

/-- R172 step 1, R52: with no byte left the SID read is Io. -/
def Obligations.AbsentSidIsIo : Prop :=
  ∀ (s : State) (plen : Len) (rest : List HostMove), s.host = .decode plen :: rest → plen ≠ 0 →
    s.src.pos = s.src.bytes.length → decodeFaults s plen .io .none none none 0

/-- R200, R203, R241, R250: a fixed shape rejects every other length, too long as well as too short, before it reads
anything. -/
def Obligations.FixedShapesRejectOtherLengths : Prop :=
  ∀ (s : State) (plen : Len) (sid : Byte) (n : Nat),
    (sid, n) ∈ ([(0x22, 2), (0x6E, 2), (0x76, 1), (0x7F, 2)] : List (Byte × Nat)) →
    decodeStarts s plen sid → plen.toNat - 1 ≠ n →
    decodeFaults s plen .payloadLengthTooShort .none (some (plen.toNat - 1)) (some n) 1

/-- R201, R202, R220, R222, R230, R231, R240: a length below the fixed part faults before anything is read. -/
def Obligations.ShortLengthsFault : Prop :=
  ∀ (s : State) (plen : Len) (sid : Byte) (n : Nat),
    (sid, n) ∈ ([(0x62, 2), (0x2E, 2), (0x34, 2), (0x74, 1), (0x38, 3), (0x78, 3), (0x36, 1)] : List (Byte × Nat)) →
    decodeStarts s plen sid → plen.toNat - 1 < n →
    decodeFaults s plen .payloadLengthTooShort .none (some (plen.toNat - 1)) (some n) 1

/-- R52, R69, R158, R205, R213, R220, R222, R230: a source that ends inside the declared bytes of a length its format
accepts is Io, and the source is at its end. First the fixed shapes and the trailing data, then the staging read of the
DTC kinds, whatever the bytes, then the path of RequestFileTransfer, then every kind at once: where the source with some
missing bytes after it would be decoded. -/
def Obligations.ShortSourceIsIo : Prop :=
  (∀ (s : State) (plen : Len) (sid : Byte) (n : Nat),
    ((sid, n) ∈ ([(0x62, 2), (0x2E, 2), (0x36, 1), (0x37, 0), (0x77, 0)] : List (Byte × Nat)) ∧ n ≤ plen.toNat - 1 ∨
     (sid, n) ∈ ([(0x22, 2), (0x6E, 2), (0x76, 1), (0x7F, 2)] : List (Byte × Nat)) ∧ n = plen.toNat - 1) →
    allocates s.params (plen.toNat - 1) → decodeStarts s plen sid → (remaining s).length < plen.toNat →
    endsInIo s plen 1) ∧
  (∀ (s : State) (plen : Len) (sid : Byte),
    (sid = 0x19 ∧ reqTableOk s.params.dtcReqTable = true ∨ sid = 0x59 ∧ tableOk s.params.dtcRspTable = true) →
    decodeStarts s plen sid → (remaining s).length < plen.toNat → endsInIo s plen 1) ∧
  (∀ (s : State) (plen : Len) (sid mode high low : Byte) (after : Bytes), (sid = 0x38 ∨ sid = 0x78) →
    decodeStarts s plen sid → remaining s = sid :: mode :: high :: low :: after → 1 ≤ mode.toNat → mode.toNat ≤ 5 →
    after.length < high.toNat * 256 + low.toNat →
    (let n := 3 + (high.toNat * 256 + low.toNat) + (if carriesMethod s.params mode then 1 else 0) +
        (if carriesSize s.params mode then 1 else 0)
     if carriesSize s.params mode then n ≤ plen.toNat - 1 else plen.toNat - 1 = n) →
    endsInIo s plen 4) ∧
  (∀ (s t : State) (plen : Len) (missing : Bytes) (rest : List HostMove), s.host = .decode plen :: rest →
    s.src.pos ≤ s.src.bytes.length →
    step { s with src := { bytes := s.src.bytes ++ missing, pos := s.src.pos } } = .next t → t.status = .ok →
    (remaining s).length < plen.toNat → endsInIo s plen 0)

/-- R220, R153, R272: the two control bytes read, an illegal address width faults, then an illegal size width, then a
length that is not the one the widths imply. -/
def Obligations.RequestDownloadReqFaults : Prop :=
  ∀ (s : State) (plen : Len) (methodByte : Byte) (sizeBytes addrBytes : Nibble) (more : Bytes),
    decodeStarts s plen 0x34 → remaining s = 0x34 :: methodByte :: nibbles sizeBytes addrBytes :: more →
    3 ≤ plen.toNat →
    (legalWidth addrBytes.toNat = false →
      decodeFaults s plen .unexpectedPayloadType .none (some addrBytes.toNat) none 3) ∧
    (legalWidth addrBytes.toNat = true → legalWidth sizeBytes.toNat = false →
      decodeFaults s plen .unexpectedPayloadType .none (some sizeBytes.toNat) none 3) ∧
    (legalWidth addrBytes.toNat = true → legalWidth sizeBytes.toNat = true →
      plen.toNat - 1 ≠ 2 + addrBytes.toNat + sizeBytes.toNat →
      decodeFaults s plen .payloadLengthTooShort .none (some (plen.toNat - 1))
        (some (2 + addrBytes.toNat + sizeBytes.toNat)) 3)

/-- R222, R223, R153: the descriptor read, a nonzero low nibble faults where it is rejected, then an illegal width,
before the length is judged. -/
def Obligations.RequestDownloadRspFaults : Prop :=
  ∀ (s : State) (plen : Len) (blockBytes low : Nibble) (more : Bytes),
    decodeStarts s plen 0x74 → remaining s = 0x74 :: nibbles blockBytes low :: more → 2 ≤ plen.toNat →
    (s.params.rdRspLowNibble = .reject → low ≠ 0 → decodeFaults s plen .encodingError .none none none 2) ∧
    ((s.params.rdRspLowNibble = .ignore ∨ low = 0) → legalWidth blockBytes.toNat = false →
      decodeFaults s plen .unexpectedPayloadType .none (some blockBytes.toNat) none 2) ∧
    ((s.params.rdRspLowNibble = .ignore ∨ low = 0) → legalWidth blockBytes.toNat = true →
      plen.toNat - 1 ≠ 1 + blockBytes.toNat →
      decodeFaults s plen .payloadLengthTooShort .none (some (plen.toNat - 1)) (some (1 + blockBytes.toNat)) 2)

/-- R230, R233, R234: a mode outside 1 to 5 faults as soon as it is read; with a legal mode the length is judged
against the path length, and a path that is not UTF-8 faults once it has been read. -/
def Obligations.FileTransferFaults : Prop :=
  ∀ (s : State) (plen : Len) (sid mode : Byte) (more : Bytes), (sid = 0x38 ∨ sid = 0x78) →
    decodeStarts s plen sid → remaining s = sid :: mode :: more → 4 ≤ plen.toNat →
    ((mode.toNat < 1 ∨ 5 < mode.toNat) → decodeFaults s plen .encodingError .none none none 2) ∧
    (∀ (high low : Byte) (after : Bytes), 1 ≤ mode.toNat → mode.toNat ≤ 5 → more = high :: low :: after →
      let pathLength := high.toNat * 256 + low.toNat
      let n := 3 + pathLength + (if carriesMethod s.params mode then 1 else 0) + (if carriesSize s.params mode then 1 else 0)
      ((if carriesSize s.params mode then plen.toNat - 1 < n else plen.toNat - 1 ≠ n) →
        decodeFaults s plen .payloadLengthTooShort .none (some (plen.toNat - 1)) (some n) 4) ∧
      ((if carriesSize s.params mode then n ≤ plen.toNat - 1 else plen.toNat - 1 = n) → pathLength ≤ after.length →
        validUtf8 (after.take pathLength) = false →
        decodeFaults s plen .encodingError .none none none (4 + pathLength)))

/-- R230, R231: the size group. Its length was judged before the path; the width byte read, an illegal width faults,
then a length that is not the one the width implies. -/
def Obligations.FileTransferSizeGroupFaults : Prop :=
  ∀ (s : State) (plen : Len) (sid mode high low : Byte) (path method after : Bytes) (width : Byte),
    (sid = 0x38 ∨ sid = 0x78) → decodeStarts s plen sid → 1 ≤ mode.toNat → mode.toNat ≤ 5 →
    carriesSize s.params mode = true → path.length = high.toNat * 256 + low.toNat → validUtf8 path = true →
    method.length = (if carriesMethod s.params mode then 1 else 0) →
    remaining s = sid :: mode :: high :: low :: (path ++ method ++ width :: after) →
    4 + path.length + method.length < plen.toNat →
    let n := 4 + path.length + method.length
    (legalWidth width.toNat = false →
      decodeFaults s plen .unexpectedPayloadType .none (some width.toNat) none (1 + n)) ∧
    (legalWidth width.toNat = true → plen.toNat - 1 ≠ n + 2 * width.toNat →
      decodeFaults s plen .payloadLengthTooShort .none (some (plen.toNat - 1)) (some (n + 2 * width.toNat)) (1 + n))

/-- R213, R214, R215, R265: in both directions the engine running out of staged bytes is Io with its cause, a mismatch
is EncodingError with its cause, and bytes left over are a length fault. -/
def Obligations.DtcFaults : Prop :=
  ∀ (s : State) (plen : Len) (sid : Byte) (table : Entries) (buf after : Bytes), decodeStarts s plen sid →
    (sid = 0x19 ∧ table = s.params.dtcReqTable ∧ reqTableOk table = true ∨
     sid = 0x59 ∧ table = s.params.dtcRspTable ∧ tableOk table = true) →
    remaining s = sid :: (buf ++ after) → plen.toNat = 1 + buf.length →
    (engineDecode (.union table) buf 0 = .error .insufficientData →
      decodeFaults s plen .io .insufficientData none none plen.toNat) ∧
    (engineDecode (.union table) buf 0 = .error .protocolMismatch →
      decodeFaults s plen .encodingError .protocolMismatch none none plen.toNat) ∧
    (∀ v used, engineDecode (.union table) buf 0 = .ok (v, used) → used ≠ buf.length →
      decodeFaults s plen .payloadLengthTooShort .none (some buf.length) (some used) plen.toNat) ∧
    (buf = [] → decodeFaults s plen .io .insufficientData none none 1)

/-- R175, R253: whatever DECODE returns is of the kind its SID selects, so a mapped SID never falls back to Raw and an
unmapped one always gives the Raw of its bytes. -/
def Obligations.SidDecidesTheKind : Prop :=
  ∀ (s t : State) (plen : Len) (sid : Byte) (m : Message), decodeStarts s plen sid → step s = .next t →
    t.msg = some m →
    m.kind = kindOfSid sid ∧ (sid ∉ mappedSids → m = .raw ((remaining s).take plen.toNat))

/-- R188: an unmapped SID never makes DECODE fault by itself. The only faults are that of PLEN = 0 and Io, when the
source is shorter than PLEN; otherwise MSG is the Raw of the bytes as they are, and ENCODE reproduces them. -/
def Obligations.UnmappedSidNeverFaults : Prop :=
  ∀ (s : State) (plen : Len) (sid : Byte) (more : Bytes) (rest : List HostMove), s.host = .decode plen :: rest →
    remaining s = sid :: more → sid ∉ mappedSids → allocates s.params (plen.toNat - 1) →
    (plen = 0 → decodeFaults s plen .payloadLengthTooShort .none (some 0) (some 1) 0) ∧
    ((sid :: more).length < plen.toNat → decodeFaults s plen .io .none none none 1) ∧
    (plen ≠ 0 → plen.toNat ≤ (sid :: more).length →
      ∃ t, step s = .next t ∧ t.status = .ok ∧ t.msg = some (.raw ((sid :: more).take plen.toNat)) ∧
        (s.params.snkCap = none →
          ∃ u, step { t with host := [.encode (.raw ((sid :: more).take plen.toNat))] } = .next u ∧
            u.status = .ok ∧ u.snk = s.snk ++ (sid :: more).take plen.toNat))

/-- R262: TransferExit and Raw raise nothing but Io. -/
def Obligations.TransferExitAndRawRaiseOnlyIo : Prop :=
  ∀ (s t : State) (plen : Len) (sid : Byte) (e : ErrRecord), decodeStarts s plen sid →
    (sid = 0x37 ∨ sid = 0x77 ∨ sid ∉ mappedSids) → step s = .next t → t.err = some e → e.kind = .io ∧ e.cause = .none

/-- R267, R153: UnexpectedPayloadType is raised only by RequestDownload and RequestFileTransfer, for a width that is
not 1, 2 or 4. -/
def Obligations.UnexpectedPayloadTypeIsAWidth : Prop :=
  ∀ (s t : State) (move : HostMove) (rest : List HostMove) (e : ErrRecord), s.host = move :: rest →
    startsCommand move = true → step s = .next t → t.err = some e → e.kind = .unexpectedPayloadType →
    (∃ w : Nat, e.value = some (BitVec.ofNat 32 w) ∧ w < 256 ∧ w ≠ 1 ∧ w ≠ 2 ∧ w ≠ 4) ∧ e.expected = none ∧
    ((∃ plen sid more, move = .decode plen ∧ remaining s = sid :: more ∧
        (sid = 0x34 ∨ sid = 0x74 ∨ sid = 0x38 ∨ sid = 0x78)) ∨
     (∃ m, move = .encode m ∧ (m.kind = .requestDownloadReq ∨ m.kind = .requestDownloadRsp ∨
        m.kind = .fileTransferReq ∨ m.kind = .fileTransferRsp)))

/-- R57: what a DECODE gives depends on the first PLEN bytes of the source only: bytes after them change nothing. Where
the DECODE faults, R69 leaves the position open and R37 does not compare the text of ERR: that these two are equal as
well rests on free values being drawn by a counter (DESIGN CHOICE, notes/assumptions/5.md, 7.md). -/
def Obligations.BytesBeyondPlenAreNotRead : Prop :=
  ∀ (s : State) (plen : Len) (rest : List HostMove) (bs tail tail' : Bytes), s.host = .decode plen :: rest →
    bs.length = plen.toNat →
    ∀ t, step { s with src := { bytes := bs ++ tail, pos := 0 } } = .next t →
      ∃ t', step { s with src := { bytes := bs ++ tail', pos := 0 } } = .next t' ∧
        t'.msg = t.msg ∧ t'.err = t.err ∧ t'.status = t.status ∧ t'.src.pos = t.src.pos

/-! ### ENCODE, LENGTH and UPGRADE -/

/-- R178 and the Encode halves of R200 to R252: a well-formed message is appended as its format gives it, and nothing
else changes. -/
def Obligations.EncodeAppendsTheFormat : Prop :=
  ∀ (s : State) (m : Message), s.cmd = some .encode → s.msg = some m → wellFormed s.params m →
    ¬ meetsUnsupported s.params m → tablesOk s.params m → hasRoom s (wire s.params m).length →
    exec (instrOfMessage m) s =
      .next { s with snk := s.snk ++ wire s.params m, status := .ok, err := none, phase := .idle }

/-- R25, R181: ENCODE of an ill-formed message faults, and the fault is that of its first ill-formed field in wire
order; the values of the DTC kinds are left to `EncodeOfUnsupportedShapesFaults`. The model's test of R25 is that there
is no such field and that a DTC value is of its table's shape. -/
def Obligations.EncodeRejectsIllFormed : Prop :=
  (∀ (s : State) (m : Message) (rest : List HostMove) (kind : ErrKind) (width : Option Nat),
    s.host = .encode m :: rest → s.params.snkCap = none → firstIllFormed s.params m = some (kind, width) →
    ∃ t e, step s = .next t ∧ t.status = .fault ∧ t.err = some e ∧ e.kind = kind ∧ e.cause = .none ∧
      e.value = width.map (BitVec.ofNat 32) ∧ e.expected = none) ∧
  (∀ (c : Params) (m : Message), wfMessage c m = true ↔ wellFormed c m)

/-- R214, R215, R128, R25: ENCODE of a DTC value that is not of its table's shape, or that reaches an unsupported shape,
is EncodingError with cause ProtocolMismatch, and has written the SID or nothing. R25 says that a value not of the shape
faults; with which kind and cause is the model's choice (DEDUCED, notes/assumptions/10.md). -/
def Obligations.EncodeOfUnsupportedShapesFaults : Prop :=
  ∀ (s : State) (sid : Byte) (table : Entries) (m : Message) (sub : Val) (rest : List HostMove),
    (sid = 0x19 ∧ table = s.params.dtcReqTable ∧ m = .readDtcReq sub ∧ reqTableOk table = true ∨
     sid = 0x59 ∧ table = s.params.dtcRspTable ∧ m = .readDtcRsp sub ∧ tableOk table = true) →
    s.host = .encode m :: rest → s.params.snkCap = none →
    (hasShape (.union table) sub = false ∨ ReachesUnsupported (.union table) sub) →
    ∃ t e, step s = .next t ∧ t.status = .fault ∧ t.err = some e ∧ e.kind = .encodingError ∧
      e.cause = .protocolMismatch ∧ e.value = none ∧ e.expected = none ∧ (t.snk = s.snk ∨ t.snk = s.snk ++ [sid])

/-- R54, R55, R178: a well-formed message that would pass the capacity of the sink is Io, and only then does a
well-formed message fault. -/
def Obligations.EncodePastCapacityIsIo : Prop :=
  ∀ (s : State) (m : Message) (rest : List HostMove), s.host = .encode m :: rest → wellFormed s.params m →
    ¬ meetsUnsupported s.params m → tablesOk s.params m →
    (wire s.params m ≠ [] → ¬ hasRoom s (wire s.params m).length →
      ∃ t e, step s = .next t ∧ t.status = .fault ∧ t.err = some e ∧ e.kind = .io ∧ e.cause = .none) ∧
    (hasRoom s (wire s.params m).length → ∃ t, step s = .next t ∧ t.status = .ok ∧ t.err = none)

/-- R70, R26, R270: an ENCODE that faults leaves in the sink what it held and some part, from its start, of what the
rules had written; the source is untouched, MSG is unwritten, and the host's own message is untouched (that MSG and the
host's message are told apart is DEDUCED, notes/assumptions/13.md). -/
def Obligations.FailedEncodeLeavesAPrefix : Prop :=
  ∀ (s t : State) (m : Message) (rest : List HostMove), s.host = .encode m :: rest → step s = .next t →
    t.status = .fault →
    ∃ e written kept, encodeMessage s.params m s.snk = .fail e (s.snk ++ written) ∧ kept <+: written ∧
      t.snk = s.snk ++ kept ∧ t.msg = none ∧ t.arg = some m ∧ t.src = s.src ∧ t.params = s.params

/-- R184, R106: LENGTH never faults and returns the number of bytes a successful ENCODE appends.
Where the number is returned is the model's choice (DESIGN CHOICE, notes/assumptions/8.md). -/
def Obligations.LengthIsTheBytesEncodeAppends : Prop :=
  ∀ (s : State) (m : Message), s.cmd = some .length → s.msg = some m →
    ∃ n, exec (instrOfMessage m) s =
        .next { s with lengthOut := some n, status := .ok, err := none, phase := .idle } ∧
      (wellFormed s.params m → ¬ meetsUnsupported s.params m → n = (wire s.params m).length)

/-- R182: UPGRADE of a message that is not a Raw returns it unchanged. -/
def Obligations.UpgradeKeepsTyped : Prop :=
  ∀ (s : State) (m : Message), s.cmd = some .upgrade → s.msg = some m → m.kind ≠ .raw →
    exec (instrOfMessage m) s = .next { s with status := .ok, err := none, phase := .idle }

/-- R182: UPGRADE of a Raw returns what a DECODE of its own bytes, with their number as PLEN, would return, and the
Raw itself where that DECODE faults; STATUS is OK and the streams are untouched. -/
def Obligations.UpgradeIsANestedDecode : Prop :=
  ∀ (s t u : State) (bytes : Bytes) (rest : List HostMove), bytes.length < 2 ^ 32 →
    s.host = .upgrade (.raw bytes) :: rest → step s = .next t →
    step { s with src := { bytes := bytes, pos := 0 }, host := [.decode (BitVec.ofNat 32 bytes.length)] } = .next u →
    t.status = .ok ∧ t.err = none ∧ t.src = s.src ∧ t.snk = s.snk ∧
      t.msg = some (u.msg.getD (.raw bytes))

/-- R183 (1), (3), (5): UPGRADE of an empty Raw or of one that begins with an unmapped SID returns it, and UPGRADE of
what UPGRADE returned returns it again. -/
def Obligations.UpgradeIsIdempotent : Prop :=
  ∀ (s t : State) (m : Message) (rest : List HostMove), s.host = .upgrade m :: rest → step s = .next t →
    (∀ bytes, m = .raw bytes → (∀ sid more, bytes = sid :: more → sid ∉ mappedSids) → t.msg = some m) ∧
    (∀ m' u, t.msg = some m' → step { t with host := .upgrade m' :: rest } = .next u → u.msg = some m')

/-! ### Round trips -/

/-- R185: a well-formed message, encoded and decoded again, comes back as its `Norm`, and exactly `MsgLen` bytes are
appended. A Raw comes back when it begins with an unmapped SID. `encodable` reads an empty sequence as
notes/assumptions/11.md says (DEDUCED). -/
def Obligations.EncodeThenDecode : Prop :=
  ∀ (s : State) (m : Message) (tail : Bytes) (rest : List HostMove), s.host = .encode m :: rest →
    wellFormed s.params m → encodable s.params m = true → supported s.params = true →
    s.params.snkCap = none → decodesBack m → msgLen s.params m < 2 ^ 32 →
    ∃ t bs u, step s = .next t ∧ t.status = .ok ∧ t.snk = s.snk ++ bs ∧ bs = wire s.params m ∧
        bs.length = msgLen s.params m ∧
      step { t with src := { bytes := bs ++ tail, pos := 0 }, host := [.decode (BitVec.ofNat 32 bs.length)] } =
        .next u ∧
      u.status = .ok ∧ u.msg = some (normal s.params m) ∧ norm s.params m = normal s.params m

/-- R186: what DECODE accepts, ENCODE reproduces byte for byte, except a RequestDownload.rsp whose descriptor has a
nonzero low nibble (R314). -/
def Obligations.DecodeThenEncode : Prop :=
  ∀ (s t : State) (plen : Len) (m : Message) (rest : List HostMove), s.host = .decode plen :: rest →
    s.params.snkCap = none → step s = .next t → t.msg = some m →
    (∀ descriptor more, remaining s = 0x74 :: descriptor :: more → descriptor.extractLsb' 0 4 = 0) →
    ∃ u, step { t with host := [.encode m] } = .next u ∧ u.status = .ok ∧
      u.snk = s.snk ++ (remaining s).take plen.toNat

/-- R223: a nonzero low nibble is not retained: ENCODE of what was decoded writes it as 0, every other byte as it
came. -/
def Obligations.LowNibbleIsNotRetained : Prop :=
  ∀ (s t : State) (plen : Len) (blockBytes low : Nibble) (more : Bytes) (m : Message), decodeStarts s plen 0x74 →
    remaining s = 0x74 :: nibbles blockBytes low :: more → s.params.snkCap = none → step s = .next t →
    t.msg = some m →
    ∃ u, step { t with host := [.encode m] } = .next u ∧
      u.snk = s.snk ++ 0x74 :: nibbles blockBytes 0 :: more.take (plen.toNat - 2)

/-- R64, R189: two messages encoded one after the other stand in the sink one after the other, and two DECODEs read
them back in that order. -/
def Obligations.ConsecutiveMessages : Prop :=
  ∀ (s t t' : State) (m m' : Message) (rest : List HostMove), s.host = .encode m :: .encode m' :: rest →
    s.snk = [] → s.params.snkCap = none → supported s.params = true →
    (∀ x, x = m ∨ x = m' → wellFormed s.params x ∧ encodable s.params x = true ∧ decodesBack x ∧
      msgLen s.params x < 2 ^ 32) →
    step s = .next t → step t = .next t' →
    ∃ u u', step { t' with
          src := { bytes := t'.snk, pos := 0 }
          host := [.decode (BitVec.ofNat 32 (msgLen s.params m)), .decode (BitVec.ofNat 32 (msgLen s.params m'))] } =
        .next u ∧ step u = .next u' ∧
      u.msg = some (normal s.params m) ∧ u'.msg = some (normal s.params m') ∧ u'.status = .ok ∧ remaining u' = []

/-! ### The whole machine -/

/-- The reset state is as R300 says. -/
def Obligations.ResetState : Prop :=
  State.reset.cmd = none ∧ State.reset.msg = none ∧ State.reset.err = none ∧ State.reset.status = .ok ∧
    State.reset.phase = .idle

/-- The invariant holds after reset. The streams of the reset state are the model's choice (DESIGN CHOICE,
notes/assumptions/2.md). -/
def Obligations.ResetMeetsInvariant : Prop := State.reset.Inv

/-- Every step from every state that meets the invariant gives one that meets it. The clause that the source stands
within its bytes rests on how a host positions it, and the clause on sinks to come on the list of host moves (DESIGN
CHOICE, notes/assumptions/16.md, 4.md); that a failed ENCODE keeps the host's message is DEDUCED
(notes/assumptions/13.md). -/
def Obligations.StepKeepsInvariant : Prop :=
  ∀ s t : State, s.Inv → step s = .next t → t.Inv

/-- No step ends in a fault of the model, and under supported parameters none is refused: every command completes. What
those faults and refusals are is the model's choice (notes/assumptions/21.md; 14.md and 15.md for the refusals, which
R58 and R132 ask for). -/
def Obligations.EveryStepCompletes : Prop :=
  (∀ (s : State) (f : Fault), step s ≠ .fault f) ∧ ∀ s : State, supported s.params = true → completes s

/-- No step changes the parameters; none changes a byte the source holds, other than the host's own loading of it; and
none takes a byte from the sink, other than the host's own moves on it (R50, R53). Which moves those are is the model's
choice (DESIGN CHOICE, notes/assumptions/4.md). -/
def Obligations.StepKeepsConfiguration : Prop :=
  ∀ s t : State, step s = .next t →
    t.params = s.params ∧
      (t.src.bytes = s.src.bytes ∨ ∃ bytes rest, s.host = .loadSource bytes :: rest ∧ t.src.bytes = bytes) ∧
      (s.snk <+: t.snk ∨ ∃ move rest, s.host = move :: rest ∧ touchesSink move = true) ∧
      (∀ bytes rest, s.host = .loadSink bytes :: rest → t.snk = bytes) ∧
      (∀ count rest, s.host = .drainSink count :: rest → t.snk = s.snk.drop count) ∧
      (∀ keep rest, s.host = .cutSink keep :: rest → t.snk = s.snk.take keep)

/-- R171, R273: what the host observes of a command depends on its inputs, the streams and the parameters only: not on
the MSG, ERR and STATUS an earlier command left, nor on any scratch register. The free values, the text of ERR
among them, are drawn alike: that they are drawn by a counter is the model's choice (DESIGN CHOICE,
notes/assumptions/5.md, 6.md, 7.md). -/
def Obligations.CommandsForgetEarlierResults : Prop :=
  ∀ (s s' : State) (move : HostMove) (rest rest' : List HostMove), s.host = move :: rest → s'.host = move :: rest' →
    startsCommand move = true → s.params = s'.params → s.src = s'.src → s.snk = s'.snk → s.draws = s'.draws →
    observe (step s) = observe (step s')
end

