-- ==== Sys2Proof/Laws/State.lean ====
section
/-! SUPPORT. One lemma per field per update of the state, true by rfl, so that no proof unfolds an update. -/

namespace Sys2Proof.Machine

/-! ### takeFault -/

@[simp] theorem takeFault_cmd (e : CodecError) (s : State) :
    (takeFault e s).cmd = s.cmd := rfl
@[simp] theorem takeFault_plen (e : CodecError) (s : State) :
    (takeFault e s).plen = s.plen := rfl
@[simp] theorem takeFault_src (e : CodecError) (s : State) :
    (takeFault e s).src = s.src := rfl
@[simp] theorem takeFault_snk (e : CodecError) (s : State) :
    (takeFault e s).snk = s.snk := rfl
@[simp] theorem takeFault_msg (e : CodecError) (s : State) :
    (takeFault e s).msg = none := rfl
@[simp] theorem takeFault_arg (e : CodecError) (s : State) :
    (takeFault e s).arg = s.arg := rfl
@[simp] theorem takeFault_err (e : CodecError) (s : State) :
    (takeFault e s).err = some (e.record (Config.freeText s.draws)) := rfl
@[simp] theorem takeFault_status (e : CodecError) (s : State) :
    (takeFault e s).status = .fault := rfl
@[simp] theorem takeFault_rpos (e : CodecError) (s : State) :
    (takeFault e s).rpos = s.rpos := rfl
@[simp] theorem takeFault_phase (e : CodecError) (s : State) :
    (takeFault e s).phase = .idle := rfl
@[simp] theorem takeFault_dir (e : CodecError) (s : State) :
    (takeFault e s).dir = s.dir := rfl
@[simp] theorem takeFault_fam (e : CodecError) (s : State) :
    (takeFault e s).fam = s.fam := rfl
@[simp] theorem takeFault_l (e : CodecError) (s : State) :
    (takeFault e s).l = s.l := rfl
@[simp] theorem takeFault_buf (e : CodecError) (s : State) :
    (takeFault e s).buf = s.buf := rfl
@[simp] theorem takeFault_lengthOut (e : CodecError) (s : State) :
    (takeFault e s).lengthOut = s.lengthOut := rfl
@[simp] theorem takeFault_params (e : CodecError) (s : State) :
    (takeFault e s).params = s.params := rfl
@[simp] theorem takeFault_host (e : CodecError) (s : State) :
    (takeFault e s).host = s.host := rfl
@[simp] theorem takeFault_draws (e : CodecError) (s : State) :
    (takeFault e s).draws = s.draws + 1 := rfl

/-! ### beginCommand -/

@[simp] theorem beginCommand_cmd (cmd : Cmd) (s : State) :
    (beginCommand cmd s).cmd = some cmd := rfl
@[simp] theorem beginCommand_plen (cmd : Cmd) (s : State) :
    (beginCommand cmd s).plen = s.plen := rfl
@[simp] theorem beginCommand_src (cmd : Cmd) (s : State) :
    (beginCommand cmd s).src = s.src := rfl
@[simp] theorem beginCommand_snk (cmd : Cmd) (s : State) :
    (beginCommand cmd s).snk = s.snk := rfl
@[simp] theorem beginCommand_msg (cmd : Cmd) (s : State) :
    (beginCommand cmd s).msg = s.msg := rfl
@[simp] theorem beginCommand_arg (cmd : Cmd) (s : State) :
    (beginCommand cmd s).arg = none := rfl
@[simp] theorem beginCommand_err (cmd : Cmd) (s : State) :
    (beginCommand cmd s).err = none := rfl
@[simp] theorem beginCommand_status (cmd : Cmd) (s : State) :
    (beginCommand cmd s).status = .ok := rfl
@[simp] theorem beginCommand_rpos (cmd : Cmd) (s : State) :
    (beginCommand cmd s).rpos = s.rpos := rfl
@[simp] theorem beginCommand_phase (cmd : Cmd) (s : State) :
    (beginCommand cmd s).phase = s.phase := rfl
@[simp] theorem beginCommand_dir (cmd : Cmd) (s : State) :
    (beginCommand cmd s).dir = s.dir := rfl
@[simp] theorem beginCommand_fam (cmd : Cmd) (s : State) :
    (beginCommand cmd s).fam = s.fam := rfl
@[simp] theorem beginCommand_l (cmd : Cmd) (s : State) :
    (beginCommand cmd s).l = s.l := rfl
@[simp] theorem beginCommand_buf (cmd : Cmd) (s : State) :
    (beginCommand cmd s).buf = s.buf := rfl
@[simp] theorem beginCommand_lengthOut (cmd : Cmd) (s : State) :
    (beginCommand cmd s).lengthOut = none := rfl
@[simp] theorem beginCommand_params (cmd : Cmd) (s : State) :
    (beginCommand cmd s).params = s.params := rfl
@[simp] theorem beginCommand_host (cmd : Cmd) (s : State) :
    (beginCommand cmd s).host = s.host := rfl
@[simp] theorem beginCommand_draws (cmd : Cmd) (s : State) :
    (beginCommand cmd s).draws = s.draws := rfl

/-! ### beginDecode -/

@[simp] theorem beginDecode_cmd (plen : Len) (s : State) :
    (beginDecode plen s).cmd = some .decode := rfl
@[simp] theorem beginDecode_plen (plen : Len) (s : State) :
    (beginDecode plen s).plen = plen := rfl
@[simp] theorem beginDecode_src (plen : Len) (s : State) :
    (beginDecode plen s).src = s.src := rfl
@[simp] theorem beginDecode_snk (plen : Len) (s : State) :
    (beginDecode plen s).snk = s.snk := rfl
@[simp] theorem beginDecode_msg (plen : Len) (s : State) :
    (beginDecode plen s).msg = none := rfl
@[simp] theorem beginDecode_arg (plen : Len) (s : State) :
    (beginDecode plen s).arg = none := rfl
@[simp] theorem beginDecode_err (plen : Len) (s : State) :
    (beginDecode plen s).err = none := rfl
@[simp] theorem beginDecode_status (plen : Len) (s : State) :
    (beginDecode plen s).status = .ok := rfl
@[simp] theorem beginDecode_rpos (plen : Len) (s : State) :
    (beginDecode plen s).rpos = 0 := rfl
@[simp] theorem beginDecode_phase (plen : Len) (s : State) :
    (beginDecode plen s).phase = s.phase := rfl
@[simp] theorem beginDecode_dir (plen : Len) (s : State) :
    (beginDecode plen s).dir = s.dir := rfl
@[simp] theorem beginDecode_fam (plen : Len) (s : State) :
    (beginDecode plen s).fam = s.fam := rfl
@[simp] theorem beginDecode_l (plen : Len) (s : State) :
    (beginDecode plen s).l = s.l := rfl
@[simp] theorem beginDecode_buf (plen : Len) (s : State) :
    (beginDecode plen s).buf = s.buf := rfl
@[simp] theorem beginDecode_lengthOut (plen : Len) (s : State) :
    (beginDecode plen s).lengthOut = none := rfl
@[simp] theorem beginDecode_params (plen : Len) (s : State) :
    (beginDecode plen s).params = s.params := rfl
@[simp] theorem beginDecode_host (plen : Len) (s : State) :
    (beginDecode plen s).host = s.host := rfl
@[simp] theorem beginDecode_draws (plen : Len) (s : State) :
    (beginDecode plen s).draws = s.draws := rfl

/-! ### beginMessage -/

@[simp] theorem beginMessage_cmd (cmd : Cmd) (m : Message) (s : State) :
    (beginMessage cmd m s).cmd = some cmd := rfl
@[simp] theorem beginMessage_plen (cmd : Cmd) (m : Message) (s : State) :
    (beginMessage cmd m s).plen = s.plen := rfl
@[simp] theorem beginMessage_src (cmd : Cmd) (m : Message) (s : State) :
    (beginMessage cmd m s).src = s.src := rfl
@[simp] theorem beginMessage_snk (cmd : Cmd) (m : Message) (s : State) :
    (beginMessage cmd m s).snk = s.snk := rfl
@[simp] theorem beginMessage_msg (cmd : Cmd) (m : Message) (s : State) :
    (beginMessage cmd m s).msg = some m := rfl
@[simp] theorem beginMessage_arg (cmd : Cmd) (m : Message) (s : State) :
    (beginMessage cmd m s).arg = some m := rfl
@[simp] theorem beginMessage_err (cmd : Cmd) (m : Message) (s : State) :
    (beginMessage cmd m s).err = none := rfl
@[simp] theorem beginMessage_status (cmd : Cmd) (m : Message) (s : State) :
    (beginMessage cmd m s).status = .ok := rfl
@[simp] theorem beginMessage_rpos (cmd : Cmd) (m : Message) (s : State) :
    (beginMessage cmd m s).rpos = s.rpos := rfl
@[simp] theorem beginMessage_phase (cmd : Cmd) (m : Message) (s : State) :
    (beginMessage cmd m s).phase = .payload := rfl
@[simp] theorem beginMessage_dir (cmd : Cmd) (m : Message) (s : State) :
    (beginMessage cmd m s).dir = s.dir := rfl
@[simp] theorem beginMessage_fam (cmd : Cmd) (m : Message) (s : State) :
    (beginMessage cmd m s).fam = s.fam := rfl
@[simp] theorem beginMessage_l (cmd : Cmd) (m : Message) (s : State) :
    (beginMessage cmd m s).l = s.l := rfl
@[simp] theorem beginMessage_buf (cmd : Cmd) (m : Message) (s : State) :
    (beginMessage cmd m s).buf = s.buf := rfl
@[simp] theorem beginMessage_lengthOut (cmd : Cmd) (m : Message) (s : State) :
    (beginMessage cmd m s).lengthOut = none := rfl
@[simp] theorem beginMessage_params (cmd : Cmd) (m : Message) (s : State) :
    (beginMessage cmd m s).params = s.params := rfl
@[simp] theorem beginMessage_host (cmd : Cmd) (m : Message) (s : State) :
    (beginMessage cmd m s).host = s.host := rfl
@[simp] theorem beginMessage_draws (cmd : Cmd) (m : Message) (s : State) :
    (beginMessage cmd m s).draws = s.draws := rfl

/-! ### failDecode -/

@[simp] theorem failDecode_cmd (e : CodecError) (read : Nat) (s : State) :
    (failDecode e read s).cmd = s.cmd := rfl
@[simp] theorem failDecode_plen (e : CodecError) (read : Nat) (s : State) :
    (failDecode e read s).plen = s.plen := rfl
@[simp] theorem failDecode_src (e : CodecError) (read : Nat) (s : State) :
    (failDecode e read s).src = { s.src with pos := drawBetween (s.src.pos + read) (s.src.pos + s.window.length) (Config.freeCount s.draws) } := rfl
@[simp] theorem failDecode_snk (e : CodecError) (read : Nat) (s : State) :
    (failDecode e read s).snk = s.snk := rfl
@[simp] theorem failDecode_msg (e : CodecError) (read : Nat) (s : State) :
    (failDecode e read s).msg = none := rfl
@[simp] theorem failDecode_arg (e : CodecError) (read : Nat) (s : State) :
    (failDecode e read s).arg = s.arg := rfl
@[simp] theorem failDecode_err (e : CodecError) (read : Nat) (s : State) :
    (failDecode e read s).err = some (e.record (Config.freeText s.draws)) := rfl
@[simp] theorem failDecode_status (e : CodecError) (read : Nat) (s : State) :
    (failDecode e read s).status = .fault := rfl
@[simp] theorem failDecode_rpos (e : CodecError) (read : Nat) (s : State) :
    (failDecode e read s).rpos = toLen read := rfl
@[simp] theorem failDecode_phase (e : CodecError) (read : Nat) (s : State) :
    (failDecode e read s).phase = .idle := rfl
@[simp] theorem failDecode_dir (e : CodecError) (read : Nat) (s : State) :
    (failDecode e read s).dir = s.dir := rfl
@[simp] theorem failDecode_fam (e : CodecError) (read : Nat) (s : State) :
    (failDecode e read s).fam = s.fam := rfl
@[simp] theorem failDecode_l (e : CodecError) (read : Nat) (s : State) :
    (failDecode e read s).l = s.l := rfl
@[simp] theorem failDecode_buf (e : CodecError) (read : Nat) (s : State) :
    (failDecode e read s).buf = s.buf := rfl
@[simp] theorem failDecode_lengthOut (e : CodecError) (read : Nat) (s : State) :
    (failDecode e read s).lengthOut = s.lengthOut := rfl
@[simp] theorem failDecode_params (e : CodecError) (read : Nat) (s : State) :
    (failDecode e read s).params = s.params := rfl
@[simp] theorem failDecode_host (e : CodecError) (read : Nat) (s : State) :
    (failDecode e read s).host = s.host := rfl
@[simp] theorem failDecode_draws (e : CodecError) (read : Nat) (s : State) :
    (failDecode e read s).draws = s.draws + 1 := rfl

/-! ### shortDecode -/

@[simp] theorem shortDecode_cmd (read : Nat) (s : State) :
    (shortDecode read s).cmd = s.cmd := rfl
@[simp] theorem shortDecode_plen (read : Nat) (s : State) :
    (shortDecode read s).plen = s.plen := rfl
@[simp] theorem shortDecode_src (read : Nat) (s : State) :
    (shortDecode read s).src = { s.src with pos := s.src.bytes.length } := rfl
@[simp] theorem shortDecode_snk (read : Nat) (s : State) :
    (shortDecode read s).snk = s.snk := rfl
@[simp] theorem shortDecode_msg (read : Nat) (s : State) :
    (shortDecode read s).msg = none := rfl
@[simp] theorem shortDecode_arg (read : Nat) (s : State) :
    (shortDecode read s).arg = s.arg := rfl
@[simp] theorem shortDecode_err (read : Nat) (s : State) :
    (shortDecode read s).err = some (CodecError.record (Config.freeText s.draws) (.io .none)) := rfl
@[simp] theorem shortDecode_status (read : Nat) (s : State) :
    (shortDecode read s).status = .fault := rfl
@[simp] theorem shortDecode_rpos (read : Nat) (s : State) :
    (shortDecode read s).rpos = toLen read := rfl
@[simp] theorem shortDecode_phase (read : Nat) (s : State) :
    (shortDecode read s).phase = .idle := rfl
@[simp] theorem shortDecode_dir (read : Nat) (s : State) :
    (shortDecode read s).dir = s.dir := rfl
@[simp] theorem shortDecode_fam (read : Nat) (s : State) :
    (shortDecode read s).fam = s.fam := rfl
@[simp] theorem shortDecode_l (read : Nat) (s : State) :
    (shortDecode read s).l = s.l := rfl
@[simp] theorem shortDecode_buf (read : Nat) (s : State) :
    (shortDecode read s).buf = s.buf := rfl
@[simp] theorem shortDecode_lengthOut (read : Nat) (s : State) :
    (shortDecode read s).lengthOut = s.lengthOut := rfl
@[simp] theorem shortDecode_params (read : Nat) (s : State) :
    (shortDecode read s).params = s.params := rfl
@[simp] theorem shortDecode_host (read : Nat) (s : State) :
    (shortDecode read s).host = s.host := rfl
@[simp] theorem shortDecode_draws (read : Nat) (s : State) :
    (shortDecode read s).draws = s.draws + 1 := rfl

/-! ### finishDecode -/

@[simp] theorem finishDecode_cmd (m : Message) (read : Nat) (s : State) :
    (finishDecode m read s).cmd = s.cmd := rfl
@[simp] theorem finishDecode_plen (m : Message) (read : Nat) (s : State) :
    (finishDecode m read s).plen = s.plen := rfl
@[simp] theorem finishDecode_src (m : Message) (read : Nat) (s : State) :
    (finishDecode m read s).src = { s.src with pos := s.src.pos + read } := rfl
@[simp] theorem finishDecode_snk (m : Message) (read : Nat) (s : State) :
    (finishDecode m read s).snk = s.snk := rfl
@[simp] theorem finishDecode_msg (m : Message) (read : Nat) (s : State) :
    (finishDecode m read s).msg = some m := rfl
@[simp] theorem finishDecode_arg (m : Message) (read : Nat) (s : State) :
    (finishDecode m read s).arg = s.arg := rfl
@[simp] theorem finishDecode_err (m : Message) (read : Nat) (s : State) :
    (finishDecode m read s).err = none := rfl
@[simp] theorem finishDecode_status (m : Message) (read : Nat) (s : State) :
    (finishDecode m read s).status = .ok := rfl
@[simp] theorem finishDecode_rpos (m : Message) (read : Nat) (s : State) :
    (finishDecode m read s).rpos = toLen read := rfl
@[simp] theorem finishDecode_phase (m : Message) (read : Nat) (s : State) :
    (finishDecode m read s).phase = .idle := rfl
@[simp] theorem finishDecode_dir (m : Message) (read : Nat) (s : State) :
    (finishDecode m read s).dir = s.dir := rfl
@[simp] theorem finishDecode_fam (m : Message) (read : Nat) (s : State) :
    (finishDecode m read s).fam = s.fam := rfl
@[simp] theorem finishDecode_l (m : Message) (read : Nat) (s : State) :
    (finishDecode m read s).l = s.l := rfl
@[simp] theorem finishDecode_buf (m : Message) (read : Nat) (s : State) :
    (finishDecode m read s).buf = s.buf := rfl
@[simp] theorem finishDecode_lengthOut (m : Message) (read : Nat) (s : State) :
    (finishDecode m read s).lengthOut = s.lengthOut := rfl
@[simp] theorem finishDecode_params (m : Message) (read : Nat) (s : State) :
    (finishDecode m read s).params = s.params := rfl
@[simp] theorem finishDecode_host (m : Message) (read : Nat) (s : State) :
    (finishDecode m read s).host = s.host := rfl
@[simp] theorem finishDecode_draws (m : Message) (read : Nat) (s : State) :
    (finishDecode m read s).draws = s.draws := rfl

/-! ### finishEncode -/

@[simp] theorem finishEncode_cmd (snk : Bytes) (s : State) :
    (finishEncode snk s).cmd = s.cmd := rfl
@[simp] theorem finishEncode_plen (snk : Bytes) (s : State) :
    (finishEncode snk s).plen = s.plen := rfl
@[simp] theorem finishEncode_src (snk : Bytes) (s : State) :
    (finishEncode snk s).src = s.src := rfl
@[simp] theorem finishEncode_snk (snk : Bytes) (s : State) :
    (finishEncode snk s).snk = snk := rfl
@[simp] theorem finishEncode_msg (snk : Bytes) (s : State) :
    (finishEncode snk s).msg = s.msg := rfl
@[simp] theorem finishEncode_arg (snk : Bytes) (s : State) :
    (finishEncode snk s).arg = s.arg := rfl
@[simp] theorem finishEncode_err (snk : Bytes) (s : State) :
    (finishEncode snk s).err = none := rfl
@[simp] theorem finishEncode_status (snk : Bytes) (s : State) :
    (finishEncode snk s).status = .ok := rfl
@[simp] theorem finishEncode_rpos (snk : Bytes) (s : State) :
    (finishEncode snk s).rpos = s.rpos := rfl
@[simp] theorem finishEncode_phase (snk : Bytes) (s : State) :
    (finishEncode snk s).phase = .idle := rfl
@[simp] theorem finishEncode_dir (snk : Bytes) (s : State) :
    (finishEncode snk s).dir = s.dir := rfl
@[simp] theorem finishEncode_fam (snk : Bytes) (s : State) :
    (finishEncode snk s).fam = s.fam := rfl
@[simp] theorem finishEncode_l (snk : Bytes) (s : State) :
    (finishEncode snk s).l = s.l := rfl
@[simp] theorem finishEncode_buf (snk : Bytes) (s : State) :
    (finishEncode snk s).buf = s.buf := rfl
@[simp] theorem finishEncode_lengthOut (snk : Bytes) (s : State) :
    (finishEncode snk s).lengthOut = s.lengthOut := rfl
@[simp] theorem finishEncode_params (snk : Bytes) (s : State) :
    (finishEncode snk s).params = s.params := rfl
@[simp] theorem finishEncode_host (snk : Bytes) (s : State) :
    (finishEncode snk s).host = s.host := rfl
@[simp] theorem finishEncode_draws (snk : Bytes) (s : State) :
    (finishEncode snk s).draws = s.draws := rfl

/-! ### failEncode -/

@[simp] theorem failEncode_cmd (e : CodecError) (written : Bytes) (s : State) :
    (failEncode e written s).cmd = s.cmd := rfl
@[simp] theorem failEncode_plen (e : CodecError) (written : Bytes) (s : State) :
    (failEncode e written s).plen = s.plen := rfl
@[simp] theorem failEncode_src (e : CodecError) (written : Bytes) (s : State) :
    (failEncode e written s).src = s.src := rfl
@[simp] theorem failEncode_snk (e : CodecError) (written : Bytes) (s : State) :
    (failEncode e written s).snk = s.snk ++ (written.drop s.snk.length).take (Config.freeCount s.draws) := rfl
@[simp] theorem failEncode_msg (e : CodecError) (written : Bytes) (s : State) :
    (failEncode e written s).msg = none := rfl
@[simp] theorem failEncode_arg (e : CodecError) (written : Bytes) (s : State) :
    (failEncode e written s).arg = s.arg := rfl
@[simp] theorem failEncode_err (e : CodecError) (written : Bytes) (s : State) :
    (failEncode e written s).err = some (e.record (Config.freeText s.draws)) := rfl
@[simp] theorem failEncode_status (e : CodecError) (written : Bytes) (s : State) :
    (failEncode e written s).status = .fault := rfl
@[simp] theorem failEncode_rpos (e : CodecError) (written : Bytes) (s : State) :
    (failEncode e written s).rpos = s.rpos := rfl
@[simp] theorem failEncode_phase (e : CodecError) (written : Bytes) (s : State) :
    (failEncode e written s).phase = .idle := rfl
@[simp] theorem failEncode_dir (e : CodecError) (written : Bytes) (s : State) :
    (failEncode e written s).dir = s.dir := rfl
@[simp] theorem failEncode_fam (e : CodecError) (written : Bytes) (s : State) :
    (failEncode e written s).fam = s.fam := rfl
@[simp] theorem failEncode_l (e : CodecError) (written : Bytes) (s : State) :
    (failEncode e written s).l = s.l := rfl
@[simp] theorem failEncode_buf (e : CodecError) (written : Bytes) (s : State) :
    (failEncode e written s).buf = s.buf := rfl
@[simp] theorem failEncode_lengthOut (e : CodecError) (written : Bytes) (s : State) :
    (failEncode e written s).lengthOut = s.lengthOut := rfl
@[simp] theorem failEncode_params (e : CodecError) (written : Bytes) (s : State) :
    (failEncode e written s).params = s.params := rfl
@[simp] theorem failEncode_host (e : CodecError) (written : Bytes) (s : State) :
    (failEncode e written s).host = s.host := rfl
@[simp] theorem failEncode_draws (e : CodecError) (written : Bytes) (s : State) :
    (failEncode e written s).draws = s.draws + 1 := rfl

/-! ### finishUpgrade -/

@[simp] theorem finishUpgrade_cmd (m : Message) (s : State) :
    (finishUpgrade m s).cmd = s.cmd := rfl
@[simp] theorem finishUpgrade_plen (m : Message) (s : State) :
    (finishUpgrade m s).plen = s.plen := rfl
@[simp] theorem finishUpgrade_src (m : Message) (s : State) :
    (finishUpgrade m s).src = s.src := rfl
@[simp] theorem finishUpgrade_snk (m : Message) (s : State) :
    (finishUpgrade m s).snk = s.snk := rfl
@[simp] theorem finishUpgrade_msg (m : Message) (s : State) :
    (finishUpgrade m s).msg = some m := rfl
@[simp] theorem finishUpgrade_arg (m : Message) (s : State) :
    (finishUpgrade m s).arg = s.arg := rfl
@[simp] theorem finishUpgrade_err (m : Message) (s : State) :
    (finishUpgrade m s).err = none := rfl
@[simp] theorem finishUpgrade_status (m : Message) (s : State) :
    (finishUpgrade m s).status = .ok := rfl
@[simp] theorem finishUpgrade_rpos (m : Message) (s : State) :
    (finishUpgrade m s).rpos = s.rpos := rfl
@[simp] theorem finishUpgrade_phase (m : Message) (s : State) :
    (finishUpgrade m s).phase = .idle := rfl
@[simp] theorem finishUpgrade_dir (m : Message) (s : State) :
    (finishUpgrade m s).dir = s.dir := rfl
@[simp] theorem finishUpgrade_fam (m : Message) (s : State) :
    (finishUpgrade m s).fam = s.fam := rfl
@[simp] theorem finishUpgrade_l (m : Message) (s : State) :
    (finishUpgrade m s).l = s.l := rfl
@[simp] theorem finishUpgrade_buf (m : Message) (s : State) :
    (finishUpgrade m s).buf = s.buf := rfl
@[simp] theorem finishUpgrade_lengthOut (m : Message) (s : State) :
    (finishUpgrade m s).lengthOut = s.lengthOut := rfl
@[simp] theorem finishUpgrade_params (m : Message) (s : State) :
    (finishUpgrade m s).params = s.params := rfl
@[simp] theorem finishUpgrade_host (m : Message) (s : State) :
    (finishUpgrade m s).host = s.host := rfl
@[simp] theorem finishUpgrade_draws (m : Message) (s : State) :
    (finishUpgrade m s).draws = s.draws := rfl

/-! ### finishLength -/

@[simp] theorem finishLength_cmd (n : Nat) (s : State) :
    (finishLength n s).cmd = s.cmd := rfl
@[simp] theorem finishLength_plen (n : Nat) (s : State) :
    (finishLength n s).plen = s.plen := rfl
@[simp] theorem finishLength_src (n : Nat) (s : State) :
    (finishLength n s).src = s.src := rfl
@[simp] theorem finishLength_snk (n : Nat) (s : State) :
    (finishLength n s).snk = s.snk := rfl
@[simp] theorem finishLength_msg (n : Nat) (s : State) :
    (finishLength n s).msg = s.msg := rfl
@[simp] theorem finishLength_arg (n : Nat) (s : State) :
    (finishLength n s).arg = s.arg := rfl
@[simp] theorem finishLength_err (n : Nat) (s : State) :
    (finishLength n s).err = none := rfl
@[simp] theorem finishLength_status (n : Nat) (s : State) :
    (finishLength n s).status = .ok := rfl
@[simp] theorem finishLength_rpos (n : Nat) (s : State) :
    (finishLength n s).rpos = s.rpos := rfl
@[simp] theorem finishLength_phase (n : Nat) (s : State) :
    (finishLength n s).phase = .idle := rfl
@[simp] theorem finishLength_dir (n : Nat) (s : State) :
    (finishLength n s).dir = s.dir := rfl
@[simp] theorem finishLength_fam (n : Nat) (s : State) :
    (finishLength n s).fam = s.fam := rfl
@[simp] theorem finishLength_l (n : Nat) (s : State) :
    (finishLength n s).l = s.l := rfl
@[simp] theorem finishLength_buf (n : Nat) (s : State) :
    (finishLength n s).buf = s.buf := rfl
@[simp] theorem finishLength_lengthOut (n : Nat) (s : State) :
    (finishLength n s).lengthOut = some n := rfl
@[simp] theorem finishLength_params (n : Nat) (s : State) :
    (finishLength n s).params = s.params := rfl
@[simp] theorem finishLength_host (n : Nat) (s : State) :
    (finishLength n s).host = s.host := rfl
@[simp] theorem finishLength_draws (n : Nat) (s : State) :
    (finishLength n s).draws = s.draws := rfl

/-! ### dispatchPhases -/

@[simp] theorem dispatchPhases_cmd (sid : Byte) (s : State) :
    (dispatchPhases sid s).cmd = s.cmd := rfl
@[simp] theorem dispatchPhases_plen (sid : Byte) (s : State) :
    (dispatchPhases sid s).plen = s.plen := rfl
@[simp] theorem dispatchPhases_src (sid : Byte) (s : State) :
    (dispatchPhases sid s).src = s.src := rfl
@[simp] theorem dispatchPhases_snk (sid : Byte) (s : State) :
    (dispatchPhases sid s).snk = s.snk := rfl
@[simp] theorem dispatchPhases_msg (sid : Byte) (s : State) :
    (dispatchPhases sid s).msg = s.msg := rfl
@[simp] theorem dispatchPhases_arg (sid : Byte) (s : State) :
    (dispatchPhases sid s).arg = s.arg := rfl
@[simp] theorem dispatchPhases_err (sid : Byte) (s : State) :
    (dispatchPhases sid s).err = s.err := rfl
@[simp] theorem dispatchPhases_status (sid : Byte) (s : State) :
    (dispatchPhases sid s).status = s.status := rfl
@[simp] theorem dispatchPhases_rpos (sid : Byte) (s : State) :
    (dispatchPhases sid s).rpos = 1 := rfl
@[simp] theorem dispatchPhases_phase (sid : Byte) (s : State) :
    (dispatchPhases sid s).phase = .payload := rfl
@[simp] theorem dispatchPhases_dir (sid : Byte) (s : State) :
    (dispatchPhases sid s).dir = dirOf sid := rfl
@[simp] theorem dispatchPhases_fam (sid : Byte) (s : State) :
    (dispatchPhases sid s).fam = familyOf (baseOf sid) (dirOf sid) := rfl
@[simp] theorem dispatchPhases_l (sid : Byte) (s : State) :
    (dispatchPhases sid s).l = s.plen - 1 := rfl
@[simp] theorem dispatchPhases_buf (sid : Byte) (s : State) :
    (dispatchPhases sid s).buf = s.buf := rfl
@[simp] theorem dispatchPhases_lengthOut (sid : Byte) (s : State) :
    (dispatchPhases sid s).lengthOut = s.lengthOut := rfl
@[simp] theorem dispatchPhases_params (sid : Byte) (s : State) :
    (dispatchPhases sid s).params = s.params := rfl
@[simp] theorem dispatchPhases_host (sid : Byte) (s : State) :
    (dispatchPhases sid s).host = s.host := rfl
@[simp] theorem dispatchPhases_draws (sid : Byte) (s : State) :
    (dispatchPhases sid s).draws = s.draws := rfl

/-! ### popMove -/

@[simp] theorem popMove_cmd (rest : List HostMove) (s : State) :
    (popMove rest s).cmd = s.cmd := rfl
@[simp] theorem popMove_plen (rest : List HostMove) (s : State) :
    (popMove rest s).plen = s.plen := rfl
@[simp] theorem popMove_src (rest : List HostMove) (s : State) :
    (popMove rest s).src = s.src := rfl
@[simp] theorem popMove_snk (rest : List HostMove) (s : State) :
    (popMove rest s).snk = s.snk := rfl
@[simp] theorem popMove_msg (rest : List HostMove) (s : State) :
    (popMove rest s).msg = s.msg := rfl
@[simp] theorem popMove_arg (rest : List HostMove) (s : State) :
    (popMove rest s).arg = s.arg := rfl
@[simp] theorem popMove_err (rest : List HostMove) (s : State) :
    (popMove rest s).err = s.err := rfl
@[simp] theorem popMove_status (rest : List HostMove) (s : State) :
    (popMove rest s).status = s.status := rfl
@[simp] theorem popMove_rpos (rest : List HostMove) (s : State) :
    (popMove rest s).rpos = s.rpos := rfl
@[simp] theorem popMove_phase (rest : List HostMove) (s : State) :
    (popMove rest s).phase = s.phase := rfl
@[simp] theorem popMove_dir (rest : List HostMove) (s : State) :
    (popMove rest s).dir = s.dir := rfl
@[simp] theorem popMove_fam (rest : List HostMove) (s : State) :
    (popMove rest s).fam = s.fam := rfl
@[simp] theorem popMove_l (rest : List HostMove) (s : State) :
    (popMove rest s).l = s.l := rfl
@[simp] theorem popMove_buf (rest : List HostMove) (s : State) :
    (popMove rest s).buf = s.buf := rfl
@[simp] theorem popMove_lengthOut (rest : List HostMove) (s : State) :
    (popMove rest s).lengthOut = s.lengthOut := rfl
@[simp] theorem popMove_params (rest : List HostMove) (s : State) :
    (popMove rest s).params = s.params := rfl
@[simp] theorem popMove_host (rest : List HostMove) (s : State) :
    (popMove rest s).host = rest := rfl
@[simp] theorem popMove_draws (rest : List HostMove) (s : State) :
    (popMove rest s).draws = s.draws := rfl

/-! ### placeMessage -/

@[simp] theorem placeMessage_cmd (bytes : Bytes) (s : State) :
    (placeMessage bytes s).cmd = s.cmd := rfl
@[simp] theorem placeMessage_plen (bytes : Bytes) (s : State) :
    (placeMessage bytes s).plen = s.plen := rfl
@[simp] theorem placeMessage_src (bytes : Bytes) (s : State) :
    (placeMessage bytes s).src = { bytes := bytes, pos := 0 } := rfl
@[simp] theorem placeMessage_snk (bytes : Bytes) (s : State) :
    (placeMessage bytes s).snk = s.snk := rfl
@[simp] theorem placeMessage_msg (bytes : Bytes) (s : State) :
    (placeMessage bytes s).msg = s.msg := rfl
@[simp] theorem placeMessage_arg (bytes : Bytes) (s : State) :
    (placeMessage bytes s).arg = s.arg := rfl
@[simp] theorem placeMessage_err (bytes : Bytes) (s : State) :
    (placeMessage bytes s).err = s.err := rfl
@[simp] theorem placeMessage_status (bytes : Bytes) (s : State) :
    (placeMessage bytes s).status = s.status := rfl
@[simp] theorem placeMessage_rpos (bytes : Bytes) (s : State) :
    (placeMessage bytes s).rpos = s.rpos := rfl
@[simp] theorem placeMessage_phase (bytes : Bytes) (s : State) :
    (placeMessage bytes s).phase = s.phase := rfl
@[simp] theorem placeMessage_dir (bytes : Bytes) (s : State) :
    (placeMessage bytes s).dir = s.dir := rfl
@[simp] theorem placeMessage_fam (bytes : Bytes) (s : State) :
    (placeMessage bytes s).fam = s.fam := rfl
@[simp] theorem placeMessage_l (bytes : Bytes) (s : State) :
    (placeMessage bytes s).l = s.l := rfl
@[simp] theorem placeMessage_buf (bytes : Bytes) (s : State) :
    (placeMessage bytes s).buf = s.buf := rfl
@[simp] theorem placeMessage_lengthOut (bytes : Bytes) (s : State) :
    (placeMessage bytes s).lengthOut = s.lengthOut := rfl
@[simp] theorem placeMessage_params (bytes : Bytes) (s : State) :
    (placeMessage bytes s).params = s.params := rfl
@[simp] theorem placeMessage_host (bytes : Bytes) (s : State) :
    (placeMessage bytes s).host = .decode (toLen bytes.length) :: s.host := rfl
@[simp] theorem placeMessage_draws (bytes : Bytes) (s : State) :
    (placeMessage bytes s).draws = s.draws := rfl

end Sys2Proof.Machine
end

