-- ==== Sys2Proof/Laws/Ops.lean ====
section
/-! SUPPORT. For each shared operation over the streams, one lemma that says everything it can do; the canonical form
of the streams as cells. -/

namespace Sys2Proof.Machine

/-! ### Reading -/

/-- SrcRead gives a value only where the bytes are there. -/
theorem srcRead_ok_iff {α : Type} (n : Nat) (bs : Bytes) (k : Bytes → Bytes → ReadResult α) (v : α) (rest : Bytes) :
    srcRead n bs k = .ok v rest ↔ n ≤ bs.length ∧ k (bs.take n) (bs.drop n) = .ok v rest := by
  unfold srcRead
  split <;> simp_all

/-- SrcRead of bytes that are there, split at the read. -/
theorem srcRead_append {α : Type} (n : Nat) (bs more : Bytes) (k : Bytes → Bytes → ReadResult α)
    (h : bs.length = n) : srcRead n (bs ++ more) k = k bs more := by
  subst h
  simp [srcRead]

/-- SrcRead of bytes that are not there. -/
theorem srcRead_short {α : Type} (n : Nat) (bs : Bytes) (k : Bytes → Bytes → ReadResult α) (h : bs.length < n) :
    srcRead n bs k = .short bs := by
  simp [srcRead, h]

@[simp] theorem srcRead_zero {α : Type} (bs : Bytes) (k : Bytes → Bytes → ReadResult α) :
    srcRead 0 bs k = k [] bs := by
  simp [srcRead]

@[simp] theorem readByte_cons {α : Type} (b : Byte) (bs : Bytes) (k : Byte → Bytes → ReadResult α) :
    readByte (b :: bs) k = k b bs := by
  simp [readByte, srcRead]

@[simp] theorem readByte_nil {α : Type} (k : Byte → Bytes → ReadResult α) : readByte [] k = .short [] := by
  simp [readByte, srcRead]

/-- A byte read gives a value only from a byte that is there. -/
theorem readByte_ok_iff {α : Type} (bs : Bytes) (k : Byte → Bytes → ReadResult α) (v : α) (rest : Bytes) :
    readByte bs k = .ok v rest ↔ ∃ b more, bs = b :: more ∧ k b more = .ok v rest := by
  cases bs with
  | nil => simp
  | cons b more => simp

/-- With no allocation limit a trailing read is a read. -/
theorem readTrailing_unlimited {α : Type} (c : Params) (n : Nat) (bs : Bytes) (k : Bytes → Bytes → ReadResult α)
    (h : c.maxAlloc = none) : readTrailing c n bs k = srcRead n bs k := by
  simp [readTrailing, overAlloc, h]

/-- When a trailing read is within the allocation limit. -/
theorem overAlloc_eq_false_iff (c : Params) (n : Nat) :
    overAlloc c n = false ↔ ∀ most, c.maxAlloc = some most → n ≤ most := by
  cases h : c.maxAlloc <;> simp [overAlloc, h]

/-- A trailing read within the allocation limit is a read. -/
theorem readTrailing_within {α : Type} (c : Params) (n : Nat) (bs : Bytes) (k : Bytes → Bytes → ReadResult α)
    (h : ∀ most, c.maxAlloc = some most → n ≤ most) : readTrailing c n bs k = srcRead n bs k := by
  simp [readTrailing, (overAlloc_eq_false_iff c n).mpr h]

/-- A trailing read gives a value only within the allocation limit and from bytes that are there. -/
theorem readTrailing_ok_iff {α : Type} (c : Params) (n : Nat) (bs : Bytes) (k : Bytes → Bytes → ReadResult α) (v : α)
    (rest : Bytes) :
    readTrailing c n bs k = .ok v rest ↔
      overAlloc c n = false ∧ n ≤ bs.length ∧ k (bs.take n) (bs.drop n) = .ok v rest := by
  unfold readTrailing
  split <;> simp_all [srcRead_ok_iff]

/-! ### Writing -/

/-- SnkWrite succeeds only within the capacity, and appends exactly its bytes. -/
theorem snkWrite_ok_iff (c : Params) (bs snk : Bytes) (k : Bytes → WriteResult) (out : Bytes) :
    snkWrite c bs snk k = .ok out ↔ overCap c snk bs = false ∧ k (snk ++ bs) = .ok out := by
  unfold snkWrite memWrite
  split <;> simp_all

/-- With no capacity set a write appends. -/
theorem snkWrite_unbounded (c : Params) (bs snk : Bytes) (k : Bytes → WriteResult) (h : c.snkCap = none) :
    snkWrite c bs snk k = k (snk ++ bs) := by
  simp [snkWrite, overCap, h, memWrite]

/-- When a write is within the capacity: an empty one always is. -/
theorem overCap_eq_false_iff (c : Params) (snk bs : Bytes) :
    overCap c snk bs = false ↔ (bs ≠ [] → ∀ cap, c.snkCap = some cap → snk.length + bs.length ≤ cap) := by
  cases h : c.snkCap <;> cases bs <;> simp [overCap, h]

/-- A write that fits the capacity appends. -/
theorem snkWrite_within (c : Params) (bs snk : Bytes) (k : Bytes → WriteResult)
    (h : ∀ cap, c.snkCap = some cap → snk.length + bs.length ≤ cap) : snkWrite c bs snk k = k (snk ++ bs) := by
  simp [snkWrite, (overCap_eq_false_iff c snk bs).mpr fun _ => h, memWrite]

/-- `SnkWrite([])` does nothing and never fails (R54). -/
@[simp] theorem snkWrite_nil (c : Params) (snk : Bytes) (k : Bytes → WriteResult) : snkWrite c [] snk k = k snk := by
  simp [snkWrite, (overCap_eq_false_iff c snk []).mpr fun h => absurd rfl h, memWrite]

/-! ### The streams -/

/-- What was written is read back where it was written. -/
theorem memRead_memWrite_same (snk bs : Bytes) : memRead (memWrite snk bs) snk.length bs.length = bs := by
  simp [memRead, memWrite]

/-- A write leaves every byte that was there alone. -/
theorem memRead_memWrite_before (snk bs : Bytes) (addr n : Nat) (h : addr + n ≤ snk.length) :
    memRead (memWrite snk bs) addr n = memRead snk addr n := by
  unfold memRead memWrite
  rw [List.drop_append_of_le_length (by omega), List.take_append_of_le_length (by simp; omega)]

theorem window_length (s : State) : s.window.length = min s.plen.toNat (s.src.bytes.length - s.src.pos) := by
  simp [State.window, memRead]

/-- The cells of a stream are in the canonical form. -/
theorem streamCells_wf (bs : Bytes) : ∀ at_ : Nat, Memory.wf (streamCells at_ bs) = true := by
  induction bs with
  | nil => intro at_; rfl
  | cons b bs ih =>
    intro at_
    cases bs with
    | nil => rfl
    | cons b' bs =>
      have h := ih (at_ + 1)
      simp only [streamCells, Memory.wf] at h ⊢
      simp [h]

/-- Both streams of every state are in the canonical form, whatever a host move or a command did to them. -/
theorem streams_wf (s : State) : Memory.wf s.srcCells = true ∧ Memory.wf s.snkCells = true :=
  ⟨streamCells_wf _ _, streamCells_wf _ _⟩

/-- A write to the sink keeps the canonical form and lists the new bytes after the old ones. -/
theorem streamCells_append (bs more : Bytes) :
    ∀ at_ : Nat, streamCells at_ (memWrite bs more) = streamCells at_ bs ++ streamCells (at_ + bs.length) more := by
  induction bs with
  | nil => intro at_; simp [memWrite, streamCells]
  | cons b bs ih =>
    intro at_
    have h := ih (at_ + 1)
    simp only [memWrite, List.cons_append, streamCells, List.length_cons] at h ⊢
    rw [h, Nat.add_assoc, Nat.add_comm 1]

/-- The streams of the reset state list nothing. -/
theorem reset_streams : State.reset.srcCells = [] ∧ State.reset.snkCells = [] := ⟨rfl, rfl⟩

/-! ### Taking a fault -/

/-- A free point lies between its bounds. -/
theorem drawBetween_bounds (low high draw : Nat) (h : low ≤ high) :
    low ≤ drawBetween low high draw ∧ drawBetween low high draw ≤ high := by
  unfold drawBetween
  omega

/-- A free point between equal bounds is that point. -/
@[simp] theorem drawBetween_self (low draw : Nat) : drawBetween low low draw = low := by
  simp [drawBetween]

@[simp] theorem record_kind_io (text : String) (cause : Cause) :
    ((CodecError.io cause).record text).kind = .io := rfl
@[simp] theorem record_kind_length (text : String) (value expected : Nat) :
    ((CodecError.payloadLengthTooShort value expected).record text).kind = .payloadLengthTooShort := rfl
@[simp] theorem record_kind_width (text : String) (value : Nat) :
    ((CodecError.unexpectedPayloadType value).record text).kind = .unexpectedPayloadType := rfl
@[simp] theorem record_kind_encoding (text : String) (cause : Cause) :
    ((CodecError.encodingError cause).record text).kind = .encodingError := rfl

/-! ### The ends of the commands -/

/-- Everything the end of a DECODE can be. -/
theorem endDecode_next_iff (r : ReadResult Message) (payload : Bytes) (s t : State) :
    endDecode r payload s = .next t ↔
      (∃ m rest, r = .ok m rest ∧ t = finishDecode m (s.rpos.toNat + (payload.length - rest.length)) s) ∨
      (∃ rest, r = .short rest ∧ t = shortDecode (s.rpos.toNat + (payload.length - rest.length)) s) ∨
      (∃ e rest, r = .fail e rest ∧ t = failDecode e (s.rpos.toNat + (payload.length - rest.length)) s) := by
  cases r <;> simp [endDecode, eq_comm]

/-- Everything the end of an ENCODE can be. -/
theorem endEncode_next_iff (r : WriteResult) (s t : State) :
    endEncode r s = .next t ↔
      (∃ snk, r = .ok snk ∧ t = finishEncode snk s) ∨ (∃ e written, r = .fail e written ∧ t = failEncode e written s) := by
  cases r <;> simp [endEncode, eq_comm]

section
variable (decodePayload : Params → Nat → Bytes → ReadResult Message)
  (write : Params → Message → Option (Bytes → WriteResult))
  (upgrade : Message → State → Host.Outcome State Fault Refusal) (length : Params → Message → Nat)
  (payload : Bytes) (s : State)

/-- Under DECODE an instruction runs its payload decoder. -/
theorem runCommand_decode (h : s.cmd = some .decode) :
    runCommand decodePayload write upgrade length payload s =
      endDecode (decodePayload s.params s.l.toNat payload) payload s := by
  simp [runCommand, h]

/-- Under ENCODE an instruction runs its writes. -/
theorem runCommand_encode (m : Message) (writes : Bytes → WriteResult) (h : s.cmd = some .encode)
    (hm : s.msg = some m) (hw : write s.params m = some writes) :
    runCommand decodePayload write upgrade length payload s = endEncode (writes s.snk) s := by
  simp [runCommand, h, hm, hw]

/-- Under UPGRADE an instruction gives the message its upgrade. -/
theorem runCommand_upgrade (m : Message) (writes : Bytes → WriteResult) (h : s.cmd = some .upgrade)
    (hm : s.msg = some m) (hw : write s.params m = some writes) :
    runCommand decodePayload write upgrade length payload s = upgrade m s := by
  simp [runCommand, h, hm, hw]

/-- Under LENGTH an instruction gives the number of bytes. -/
theorem runCommand_length (m : Message) (writes : Bytes → WriteResult) (h : s.cmd = some .length)
    (hm : s.msg = some m) (hw : write s.params m = some writes) :
    runCommand decodePayload write upgrade length payload s = .next (finishLength (length s.params m) s) := by
  simp [runCommand, h, hm, hw]

/-- Without a command an instruction does nothing. -/
theorem runCommand_none (h : s.cmd = none) :
    runCommand decodePayload write upgrade length payload s = .next s := by
  simp [runCommand, h]
end

end Sys2Proof.Machine
end

