-- ==== Sys2Proof/Laws/Operands.lean ====
section
/-! SUPPORT. For each check and each field of the payload codecs, one lemma that says when it goes on. -/

namespace Sys2Proof.Machine

theorem legalWidth_iff (w : Nat) : legalWidth w = true ↔ w = 1 ∨ w = 2 ∨ w = 4 := by
  simp [legalWidth]

theorem legalWidth_le (w : Nat) (h : legalWidth w = true) : 1 ≤ w ∧ w ≤ 4 := by
  have := (legalWidth_iff w).mp h
  omega

/-- An exact check goes on only with the exact length (R157). -/
theorem checkExact_ok_iff {α : Type} (l n : Nat) (bs : Bytes) (k : ReadResult α) (v : α) (rest : Bytes) :
    checkExact l n bs k = .ok v rest ↔ l = n ∧ k = .ok v rest := by
  unfold checkExact
  split <;> simp_all

@[simp] theorem checkExact_self {α : Type} (n : Nat) (bs : Bytes) (k : ReadResult α) : checkExact n n bs k = k := by
  simp [checkExact]

theorem checkExact_ne {α : Type} (l n : Nat) (bs : Bytes) (k : ReadResult α) (h : l ≠ n) :
    checkExact l n bs k = .fail (.payloadLengthTooShort l n) bs := by
  simp [checkExact, h]

/-- A minimum check goes on only with enough length (R157). -/
theorem checkMin_ok_iff {α : Type} (l n : Nat) (bs : Bytes) (k : ReadResult α) (v : α) (rest : Bytes) :
    checkMin l n bs k = .ok v rest ↔ n ≤ l ∧ k = .ok v rest := by
  unfold checkMin
  split <;> simp_all

theorem checkMin_le {α : Type} (l n : Nat) (bs : Bytes) (k : ReadResult α) (h : n ≤ l) : checkMin l n bs k = k := by
  simp [checkMin, Nat.not_lt.mpr h]

theorem checkMin_lt {α : Type} (l n : Nat) (bs : Bytes) (k : ReadResult α) (h : l < n) :
    checkMin l n bs k = .fail (.payloadLengthTooShort l n) bs := by
  simp [checkMin, h]

@[simp] theorem checkMin_zero {α : Type} (l : Nat) (bs : Bytes) (k : ReadResult α) : checkMin l 0 bs k = k := by
  simp [checkMin]

/-- A width check goes on only with a legal width (R153). -/
theorem checkWidth_ok_iff {α : Type} (w : Nat) (bs : Bytes) (k : ReadResult α) (v : α) (rest : Bytes) :
    checkWidth w bs k = .ok v rest ↔ legalWidth w = true ∧ k = .ok v rest := by
  unfold checkWidth
  split <;> simp_all

theorem checkWidth_legal {α : Type} (w : Nat) (bs : Bytes) (k : ReadResult α) (h : legalWidth w = true) :
    checkWidth w bs k = k := by
  simp [checkWidth, h]

theorem checkWidth_illegal {α : Type} (w : Nat) (bs : Bytes) (k : ReadResult α) (h : legalWidth w = false) :
    checkWidth w bs k = .fail (.unexpectedPayloadType w) bs := by
  simp [checkWidth, h]

/-- The width check of ENCODE goes on only with a legal width (R153). -/
theorem requireWidth_ok_iff (w : Nat) (snk : Bytes) (k : WriteResult) (out : Bytes) :
    requireWidth w snk k = .ok out ↔ legalWidth w = true ∧ k = .ok out := by
  unfold requireWidth
  split <;> simp_all

/-- The fit check goes on only with a value below the width's bound (R156). -/
theorem requireFits_ok_iff (w v : Nat) (snk : Bytes) (k : WriteResult) (out : Bytes) :
    requireFits w v snk k = .ok out ↔ v < 256 ^ w ∧ k = .ok out := by
  unfold requireFits
  split <;> simp_all

@[simp] theorem bytesBe_length (v n : Nat) : (bytesBe v n).length = n := by
  induction n with
  | zero => rfl
  | succ n ih => simp [bytesBe, ih]

@[simp] theorem readU16_cons {α : Type} (high low : Byte) (bs : Bytes) (k : Half → Bytes → ReadResult α) :
    readU16 (high :: low :: bs) k = k (BitVec.ofNat 16 (high.toNat * 256 + low.toNat)) bs := by
  simp [readU16, srcRead, be]

/-- A 16-bit field is read only from two bytes that are there. -/
theorem readU16_ok_iff {α : Type} (bs : Bytes) (k : Half → Bytes → ReadResult α) (v : α) (rest : Bytes) :
    readU16 bs k = .ok v rest ↔
      2 ≤ bs.length ∧ k (BitVec.ofNat 16 (be (bs.take 2))) (bs.drop 2) = .ok v rest := by
  simp [readU16, srcRead_ok_iff]

/-- A variable-width field is read only at a legal width from bytes that are there (R155). -/
theorem readVar_ok_iff {α : Type} (w : Nat) (bs : Bytes) (k : Word → Bytes → ReadResult α) (v : α) (rest : Bytes) :
    readVar w bs k = .ok v rest ↔
      legalWidth w = true ∧ w ≤ bs.length ∧ k (BitVec.ofNat 32 (be (bs.take w))) (bs.drop w) = .ok v rest := by
  simp [readVar, checkWidth_ok_iff, srcRead_ok_iff]

theorem readVar_append {α : Type} (w : Nat) (bs more : Bytes) (k : Word → Bytes → ReadResult α)
    (hw : legalWidth w = true) (h : bs.length = w) : readVar w (bs ++ more) k = k (BitVec.ofNat 32 (be bs)) more := by
  simp [readVar, checkWidth_legal, hw, srcRead_append, h]

/-- A variable-width field is written only at a legal width it fits, within the capacity (R154). -/
theorem writeVar_ok_iff (c : Params) (w : Nat) (v : Word) (snk : Bytes) (k : Bytes → WriteResult) (out : Bytes) :
    writeVar c w v snk k = .ok out ↔
      legalWidth w = true ∧ v.toNat < 256 ^ w ∧ overCap c snk (bytesBe v.toNat w) = false ∧
        k (snk ++ bytesBe v.toNat w) = .ok out := by
  simp [writeVar, requireWidth_ok_iff, requireFits_ok_iff, snkWrite_ok_iff]

end Sys2Proof.Machine
end

