-- ==== Sys2Proof/Laws/Command.lean ====
section
/-! SUPPORT. What one instruction does under each command, and what one step can be, each said once for all rows. -/

namespace Sys2Proof.Machine

/-! ### An instruction under each command -/

/-- Under DECODE every row runs the payload decoder of its kind; the DTC rows stage their bytes first. -/
theorem exec_decode (i : Instr) (s : State) (h : s.cmd = some .decode) :
    exec i s = endDecode (decodePayload s.params s.l.toNat i) i.payload
      (if i.kind = .readDtcReq ∨ i.kind = .readDtcRsp then stageDtc i.payload s else s) := by
  have hs : ∀ bs, (stageDtc bs s).cmd = some .decode := by
    intro bs
    unfold stageDtc
    split <;> simp [h]
  have hp : ∀ bs, (stageDtc bs s).params = s.params ∧ (stageDtc bs s).l = s.l := by
    intro bs
    unfold stageDtc
    split <;> simp
  cases i <;>
    simp [exec, execReadDidReq, execReadDidRsp, execWriteDidReq, execWriteDidRsp, execReadDtcReq, execReadDtcRsp,
      execReadDtcReqReportSupported, execRequestDownloadReq, execRequestDownloadRsp, execFileTransferReq,
      execFileTransferRsp, execFileTransferReqAdd, execFileTransferReqDelete, execFileTransferReqReplace,
      execFileTransferReqReadFile, execFileTransferReqReadDir, execFileTransferRspAdd, execFileTransferRspDelete,
      execFileTransferRspReplace, execFileTransferRspReadFile, execFileTransferRspReadDir, execTransferDataReq,
      execTransferDataRsp, execTransferExitReq, execTransferExitRsp, execNegativeResponse, execRaw, runTyped,
      runCommand_decode, h, hs, hp, decodePayload, Instr.kind, Instr.payload]

/-- Staging changes BUF only. -/
theorem stageDtc_eq (bs : Bytes) (s : State) : ∃ buf, stageDtc bs s = { s with buf := buf } := by
  unfold stageDtc
  split
  · exact ⟨_, rfl⟩
  · exact ⟨s.buf, rfl⟩

/-- Outside DECODE nothing is staged. -/
theorem stageDtc_of_ne (bs : Bytes) (s : State) (h : s.cmd ≠ some .decode) : stageDtc bs s = s := by
  simp [stageDtc, h]

/-- The bytes of a message are staged whole when the source delivers them. -/
theorem stageDtc_append (buf rest : Bytes) (s : State) (h : s.cmd = some .decode) (hl : s.l.toNat = buf.length) :
    stageDtc (buf ++ rest) s = { s with buf := buf } := by
  simp [stageDtc, h, hl]

/-- What the row of a message does under a command that reads MSG. -/
def messageCommand (cmd : Cmd) (m : Message) (s : State) : Host.Outcome State Fault Refusal :=
  match cmd with
  | .decode => .next s
  | .encode => endEncode (encodeMessage s.params m s.snk) s
  | .upgrade => upgradeRaw m s
  | .length => .next (finishLength (msgLen s.params m) s)

/-- A row that writes the message does under every such command what the message asks. -/
theorem runTyped_message (k : Kind) (decodePayload : Params → Nat → Bytes → ReadResult Message)
    (write : Params → Message → Option (Bytes → WriteResult)) (payload : Bytes) (cmd : Cmd) (m : Message) (s : State)
    (hd : cmd ≠ .decode) (h : s.cmd = some cmd) (hm : s.msg = some m) (hk : m.kind = k) (hraw : k ≠ .raw)
    (hw : write s.params m = writePayload s.params m) (hs : (writePayload s.params m).isSome) :
    runTyped k decodePayload write payload s = messageCommand cmd m s := by
  obtain ⟨writes, hwr⟩ := Option.isSome_iff_exists.mp hs
  have hu : upgradeRaw m s = .next (finishUpgrade m s) := by
    cases m <;> first | rfl | (subst hk; simp [Message.kind] at hraw)
  cases cmd with
  | decode => exact absurd rfl hd
  | encode =>
    rw [runTyped, runCommand_encode _ _ _ _ _ _ m (writeFrame s.params k writes) h hm (by simp [hw, hwr])]
    simp [messageCommand, encodeMessage, hwr, hk]
  | upgrade =>
    rw [runTyped, runCommand_upgrade _ _ _ _ _ _ m (writeFrame s.params k writes) h hm (by simp [hw, hwr])]
    simp [messageCommand, keepTyped, hu]
  | length =>
    rw [runTyped, runCommand_length _ _ _ _ _ _ m (writeFrame s.params k writes) h hm (by simp [hw, hwr])]
    rfl

/-- Under ENCODE, UPGRADE and LENGTH the row of a message does what the message asks. -/
theorem exec_message (cmd : Cmd) (m : Message) (s : State) (hd : cmd ≠ .decode) (h : s.cmd = some cmd)
    (hm : s.msg = some m) : exec (instrOfMessage m) s = messageCommand cmd m s := by
  have hs : ∀ bs, stageDtc bs s = s := fun bs => stageDtc_of_ne bs s (by simp [h, hd])
  cases m with
  | readDtcReq sub =>
    cases sub with
    | variant index v =>
      by_cases hi : index = 0x0A
      · subst hi
        simp only [instrOfMessage, if_true, exec, execReadDtcReqReportSupported, hs]
        exact runTyped_message _ _ _ _ cmd _ s hd h hm rfl (by decide) (by simp [writePayload, writeReportSupported]) rfl
      · simp only [instrOfMessage, if_neg hi, exec, execReadDtcReq, hs]
        exact runTyped_message _ _ _ _ cmd _ s hd h hm rfl (by decide) rfl rfl
    | _ =>
      simp only [instrOfMessage, exec, execReadDtcReq, hs]
      exact runTyped_message _ _ _ _ cmd _ s hd h hm rfl (by decide) rfl rfl
  | readDtcRsp sub =>
    simp only [instrOfMessage, exec, execReadDtcRsp, hs]
    exact runTyped_message _ _ _ _ cmd _ s hd h hm rfl (by decide) rfl rfl
  | fileTransferReq f =>
    have hw : writeFileTransferReqMode f.mode s.params (.fileTransferReq f) = writePayload s.params (.fileTransferReq f) := by
      simp [writeFileTransferReqMode, writePayload]
    unfold instrOfMessage
    by_cases hl : legalMode f.mode = true
    · simp only [hl, if_true, refineFileTransferReq]
      split
      · next he => exact runTyped_message _ _ _ _ cmd _ s hd h hm rfl (by decide) (by rw [← hw, he]) rfl
      split
      · next he => exact runTyped_message _ _ _ _ cmd _ s hd h hm rfl (by decide) (by rw [← hw, he]) rfl
      split
      · next he => exact runTyped_message _ _ _ _ cmd _ s hd h hm rfl (by decide) (by rw [← hw, he]) rfl
      split
      · next he => exact runTyped_message _ _ _ _ cmd _ s hd h hm rfl (by decide) (by rw [← hw, he]) rfl
      split
      · next he => exact runTyped_message _ _ _ _ cmd _ s hd h hm rfl (by decide) (by rw [← hw, he]) rfl
      exact runTyped_message _ _ _ _ cmd _ s hd h hm rfl (by decide) rfl rfl
    · simp only [hl, Bool.false_eq_true, if_false, refineFileTransferReq]
      exact runTyped_message _ _ _ _ cmd _ s hd h hm rfl (by decide) rfl rfl
  | fileTransferRsp f =>
    have hw : writeFileTransferRspMode f.mode s.params (.fileTransferRsp f) = writePayload s.params (.fileTransferRsp f) := by
      simp [writeFileTransferRspMode, writePayload]
    unfold instrOfMessage
    by_cases hl : legalMode f.mode = true
    · simp only [hl, if_true, refineFileTransferRsp]
      split
      · next he => exact runTyped_message _ _ _ _ cmd _ s hd h hm rfl (by decide) (by rw [← hw, he]) rfl
      split
      · next he => exact runTyped_message _ _ _ _ cmd _ s hd h hm rfl (by decide) (by rw [← hw, he]) rfl
      split
      · next he => exact runTyped_message _ _ _ _ cmd _ s hd h hm rfl (by decide) (by rw [← hw, he]) rfl
      split
      · next he => exact runTyped_message _ _ _ _ cmd _ s hd h hm rfl (by decide) (by rw [← hw, he]) rfl
      split
      · next he => exact runTyped_message _ _ _ _ cmd _ s hd h hm rfl (by decide) (by rw [← hw, he]) rfl
      exact runTyped_message _ _ _ _ cmd _ s hd h hm rfl (by decide) rfl rfl
    · simp only [hl, Bool.false_eq_true, if_false, refineFileTransferRsp]
      exact runTyped_message _ _ _ _ cmd _ s hd h hm rfl (by decide) rfl rfl
  | raw bytes =>
    cases cmd with
    | decode => exact absurd rfl hd
    | encode => exact runCommand_encode _ (fun c m => (writeRaw c m).map (writeFrame c .raw)) _ _ _ _ _ _ h hm rfl
    | upgrade => exact runCommand_upgrade _ (fun c m => (writeRaw c m).map (writeFrame c .raw)) _ _ _ _ _ _ h hm rfl
    | length => exact runCommand_length _ (fun c m => (writeRaw c m).map (writeFrame c .raw)) _ _ _ _ _ _ h hm rfl
  | _ => exact runTyped_message _ _ _ _ cmd _ s hd h hm rfl (by decide) rfl rfl

/-! ### A step -/

/-- A step whose host move is over without an instruction. -/
theorem step_of_finished (s t : State) (move : HostMove) (rest : List HostMove) (h : s.host = move :: rest)
    (he : enterMove move (popMove rest s) = .finished t) : step s = .next t := by
  simp [step, h, he]

/-- A step whose host move runs an instruction. -/
theorem step_of_run (s t : State) (move : HostMove) (rest : List HostMove) (i : Instr) (h : s.host = move :: rest)
    (he : enterMove move (popMove rest s) = .run i t) : step s = exec i t := by
  simp [step, h, he]

/-- A step that starts ENCODE, UPGRADE or LENGTH. -/
theorem step_message (s : State) (cmd : Cmd) (m : Message) (move : HostMove) (rest : List HostMove)
    (hd : cmd ≠ .decode) (h : s.host = move :: rest)
    (hm : enterMove move (popMove rest s) = enterWith cmd m (popMove rest s)) :
    step s = messageCommand cmd m (beginMessage cmd m (popMove rest s)) := by
  rw [step_of_run s _ move rest _ h hm]
  exact exec_message cmd m _ hd rfl rfl

theorem step_encode (s : State) (m : Message) (rest : List HostMove) (h : s.host = .encode m :: rest) :
    step s = messageCommand .encode m (beginMessage .encode m (popMove rest s)) :=
  step_message s .encode m _ rest (by decide) h rfl

theorem step_upgrade (s : State) (m : Message) (rest : List HostMove) (h : s.host = .upgrade m :: rest) :
    step s = messageCommand .upgrade m (beginMessage .upgrade m (popMove rest s)) :=
  step_message s .upgrade m _ rest (by decide) h rfl

theorem step_length (s : State) (m : Message) (rest : List HostMove) (h : s.host = .length m :: rest) :
    step s = messageCommand .length m (beginMessage .length m (popMove rest s)) :=
  step_message s .length m _ rest (by decide) h rfl

/-- The entry of DECODE with no byte left. -/
theorem enterDecode_empty (plen : Len) (s : State) (hp : plen ≠ 0) (h : (beginDecode plen s).window = []) :
    enterDecode plen s = .finished (shortDecode 0 (beginDecode plen s)) := by
  have hz : ¬ plen = 0#plenBits := hp
  simp [enterDecode, hz, h, decode]

/-- The entry of DECODE with a SID byte: the instruction of the bytes within PLEN runs after the phases. -/
theorem enterDecode_cons (plen : Len) (s : State) (sid : Byte) (more : Bytes) (hp : plen ≠ 0)
    (h : (beginDecode plen s).window = sid :: more) :
    enterDecode plen s =
      .run (instrOf sid more) (dispatchPhases (instrOf sid more).sid (beginDecode plen s)) := by
  have hz : ¬ plen = 0#plenBits := hp
  simp [enterDecode, hz, h, decode]

end Sys2Proof.Machine
end

