-- ==== Sys2Proof/Laws/Engine.lean ====
section
/-! SUPPORT. The Codec Engine construct by construct: when each step of it succeeds, and with what. -/

namespace Sys2Proof.Machine

/-- An integer is decoded only from bytes that are there (R123). -/
theorem decodeInt_ok_iff (n : Nat) (make : Nat → Val) (buf : Bytes) (v : Val) (rest : Bytes) :
    decodeInt n make buf = .ok (v, rest) ↔ n ≤ buf.length ∧ make (be (buf.take n)) = v ∧ buf.drop n = rest := by
  unfold decodeInt
  split
  · simp; omega
  · simp; omega

/-- The data of a variant is that of the entry at its index; an index with no entry is a mismatch (R125). -/
theorem decodeVariant_eq (variants : Entries) :
    ∀ (i : Nat) (buf : Bytes), decodeVariant variants i buf =
      match variants.get? i with
      | some entry => decodeShape entry.2 buf
      | none => .error .protocolMismatch := by
  induction variants using Entries.rec (motive_1 := fun _ => True) with
  | nil => intro i buf; rfl
  | cons name shape rest _ ih =>
    intro i buf
    cases i with
    | zero => rfl
    | succ i => simpa [decodeVariant, Entries.get?] using ih i buf
  | _ => trivial

/-- The same on encode (R124). -/
theorem encodeVariant_eq (variants : Entries) :
    ∀ (i : Nat) (v : Val), encodeVariant variants i v =
      match variants.get? i with
      | some entry => encodeShape entry.2 v
      | none => .error .protocolMismatch := by
  induction variants using Entries.rec (motive_1 := fun _ => True) with
  | nil => intro i v; rfl
  | cons name shape rest _ ih =>
    intro i v
    cases i with
    | zero => rfl
    | succ i => simpa [encodeVariant, Entries.get?] using ih i v
  | _ => trivial

/-- The same for a value's being of the shape (R121). -/
theorem variantHasShape_eq (variants : Entries) :
    ∀ (i : Nat) (v : Val), variantHasShape variants i v =
      match variants.get? i with
      | some entry => hasShape entry.2 v
      | none => false := by
  induction variants using Entries.rec (motive_1 := fun _ => True) with
  | nil => intro i v; rfl
  | cons name shape rest _ ih =>
    intro i v
    cases i with
    | zero => rfl
    | succ i => simpa [variantHasShape, Entries.get?] using ih i v
  | _ => trivial

/-- An index has no entry exactly when it is not below their number (R125). -/
theorem Entries.get?_eq_none_iff (entries : Entries) : ∀ i : Nat, entries.get? i = none ↔ entries.length ≤ i := by
  induction entries using Entries.rec (motive_1 := fun _ => True) with
  | nil => intro i; simp [Entries.get?, Entries.length]
  | cons name shape rest _ ih =>
    intro i
    cases i with
    | zero => simp [Entries.get?, Entries.length]
    | succ i => simp [Entries.get?, Entries.length, ih i]
  | _ => trivial

/-- The least length of an entry is at least the least of all of them (R129). -/
theorem leastMinLen_le (entries : Entries) :
    ∀ (i : Nat) (entry : String × Shape), entries.get? i = some entry →
      (leastMinLen entries).getD 0 ≤ minLen entry.2 := by
  induction entries using Entries.rec (motive_1 := fun _ => True) with
  | nil => intro i entry h; simp [Entries.get?] at h
  | cons name shape rest _ ih =>
    intro i entry h
    cases i with
    | zero =>
      simp only [Entries.get?, Option.some.injEq] at h
      subst h
      simp only [leastMinLen]
      split <;> simp
    | succ i =>
      have least := ih i entry (by simpa [Entries.get?] using h)
      simp only [leastMinLen]
      cases hrest : leastMinLen rest with
      | none =>
        cases rest with
        | nil => simp [Entries.get?] at h
        | cons _ _ more => cases hmore : leastMinLen more <;> simp [leastMinLen, hmore] at hrest
      | some n => simp [hrest] at least ⊢; omega
  | _ => trivial

/-- A union is decoded from an index byte that is there and the data of its entry (R125). -/
theorem decodeShape_union_ok_iff (variants : Entries) (buf : Bytes) (v : Val) (rest : Bytes) :
    decodeShape (.union variants) buf = .ok (v, rest) ↔
      ∃ index more w, buf = index :: more ∧ decodeVariant variants index.toNat more = .ok (w, rest) ∧
        v = .variant index w := by
  cases buf with
  | nil => simp [decodeShape]
  | cons index more =>
    simp only [decodeShape]
    cases h : decodeVariant variants index.toNat more with
    | error e => simp [h]
    | ok r => obtain ⟨w, rest'⟩ := r; simp [h, eq_comm, and_comm]

/-- A record with a first field is decoded field by field (R126). -/
theorem decodeFields_cons_ok_iff (name : String) (shape : Shape) (fields : Entries) (buf : Bytes) (vs : Vals)
    (rest : Bytes) :
    decodeFields (.cons name shape fields) buf = .ok (vs, rest) ↔
      ∃ v mid ws, decodeShape shape buf = .ok (v, mid) ∧ decodeFields fields mid = .ok (ws, rest) ∧
        vs = .cons v ws := by
  simp only [decodeFields]
  cases h : decodeShape shape buf with
  | error e => simp
  | ok r =>
    obtain ⟨v, mid⟩ := r
    simp only
    cases h' : decodeFields fields mid with
    | error e => simp [h']
    | ok r' => obtain ⟨ws, rest'⟩ := r'; simp [h', eq_comm, and_comm]

/-- One turn of the greedy loop (R127): it ends where an element runs out of input, or takes an element and goes on. -/
theorem decodeSeq_succ_ok_iff (element : Bytes → Except EngineFail (Val × Bytes)) (fuel : Nat) (buf : Bytes)
    (vs : Vals) (rest : Bytes) :
    decodeSeq element (fuel + 1) buf = .ok (vs, rest) ↔
      (element buf = .error .insufficientData ∧ vs = .nil ∧ rest = buf) ∨
      (∃ v mid ws, element buf = .ok (v, mid) ∧ decodeSeq element fuel mid = .ok (ws, rest) ∧ vs = .cons v ws) := by
  simp only [decodeSeq]
  cases h : element buf with
  | error e => cases e <;> simp [eq_comm]
  | ok r =>
    obtain ⟨v, mid⟩ := r
    simp only
    cases h' : decodeSeq element fuel mid with
    | error e => simp [h']
    | ok r' => obtain ⟨ws, rest'⟩ := r'; simp [h', eq_comm, and_comm]

/-- The elements of a sequence are encoded one after the other (R127). -/
theorem encodeSeq_cons_ok_iff (element : Val → Except EngineFail Bytes) (v : Val) (vs : Vals) (bs : Bytes) :
    encodeSeq element (.cons v vs) = .ok bs ↔
      ∃ first more, element v = .ok first ∧ encodeSeq element vs = .ok more ∧ bs = first ++ more := by
  simp only [encodeSeq]
  cases h : element v with
  | error e => simp
  | ok first =>
    simp only
    cases h' : encodeSeq element vs with
    | error e => simp
    | ok more => simp [eq_comm]

/-- The engine's decode of a whole buffer, by what is left of it (R122). -/
theorem engineDecode_zero_ok_iff (shape : Shape) (buf : Bytes) (v : Val) (used : Nat) :
    engineDecode shape buf 0 = .ok (v, used) ↔
      ∃ rest, decodeShape shape buf = .ok (v, rest) ∧ used = buf.length - rest.length := by
  simp only [engineDecode, List.drop_zero, Nat.zero_add]
  cases h : decodeShape shape buf with
  | error e => simp
  | ok r => obtain ⟨w, rest⟩ := r; simp [eq_comm, and_comm]

end Sys2Proof.Machine
end

