-- ==== Sys2Proof/Laws/PerInstr.lean ====
section
/-! SUPPORT. The per-instruction family `SidSelectsKind`: the SID of a well-formed instruction selects its own kind
(30_encoding.md R82, R110), one lemma per constructor. -/

namespace Sys2Proof.Laws.SidSelectsKind

/-- The SID byte the encoder writes is looked up, by base and direction, as the kind of the instruction. -/
def Statement (i : Instr) : Prop :=
  i.wf = true → kindOfSid i.sid = i.kind ∧ (encode i).head? = some i.sid

/-- A SID that is not one of the 15 selects Raw. -/
theorem unmapped_sid_is_raw : ∀ sid : Byte, sid ∉ mappedSids → kindOfSid sid = .raw := by decide

theorem readDidReq (payload : Bytes) : Statement (.readDidReq payload) :=
  fun _ => ⟨show kindOfSid _ = _ by simp only [Instr.sid, Instr.kind]; decide, rfl⟩
theorem readDidRsp (payload : Bytes) : Statement (.readDidRsp payload) :=
  fun _ => ⟨show kindOfSid _ = _ by simp only [Instr.sid, Instr.kind]; decide, rfl⟩
theorem writeDidReq (payload : Bytes) : Statement (.writeDidReq payload) :=
  fun _ => ⟨show kindOfSid _ = _ by simp only [Instr.sid, Instr.kind]; decide, rfl⟩
theorem writeDidRsp (payload : Bytes) : Statement (.writeDidRsp payload) :=
  fun _ => ⟨show kindOfSid _ = _ by simp only [Instr.sid, Instr.kind]; decide, rfl⟩
theorem readDtcReq (payload : Bytes) : Statement (.readDtcReq payload) :=
  fun _ => ⟨show kindOfSid _ = _ by simp only [Instr.sid, Instr.kind]; decide, rfl⟩
theorem readDtcRsp (payload : Bytes) : Statement (.readDtcRsp payload) :=
  fun _ => ⟨show kindOfSid _ = _ by simp only [Instr.sid, Instr.kind]; decide, rfl⟩
theorem readDtcReqReportSupported (rest : Bytes) : Statement (.readDtcReqReportSupported rest) :=
  fun _ => ⟨show kindOfSid _ = _ by simp only [Instr.sid, Instr.kind]; decide, rfl⟩
theorem requestDownloadReq (payload : Bytes) : Statement (.requestDownloadReq payload) :=
  fun _ => ⟨show kindOfSid _ = _ by simp only [Instr.sid, Instr.kind]; decide, rfl⟩
theorem requestDownloadRsp (payload : Bytes) : Statement (.requestDownloadRsp payload) :=
  fun _ => ⟨show kindOfSid _ = _ by simp only [Instr.sid, Instr.kind]; decide, rfl⟩
theorem fileTransferReq (payload : Bytes) : Statement (.fileTransferReq payload) :=
  fun _ => ⟨show kindOfSid _ = _ by simp only [Instr.sid, Instr.kind]; decide, rfl⟩
theorem fileTransferRsp (payload : Bytes) : Statement (.fileTransferRsp payload) :=
  fun _ => ⟨show kindOfSid _ = _ by simp only [Instr.sid, Instr.kind]; decide, rfl⟩
theorem fileTransferReqAdd (rest : Bytes) : Statement (.fileTransferReqAdd rest) :=
  fun _ => ⟨show kindOfSid _ = _ by simp only [Instr.sid, Instr.kind]; decide, rfl⟩
theorem fileTransferReqDelete (rest : Bytes) : Statement (.fileTransferReqDelete rest) :=
  fun _ => ⟨show kindOfSid _ = _ by simp only [Instr.sid, Instr.kind]; decide, rfl⟩
theorem fileTransferReqReplace (rest : Bytes) : Statement (.fileTransferReqReplace rest) :=
  fun _ => ⟨show kindOfSid _ = _ by simp only [Instr.sid, Instr.kind]; decide, rfl⟩
theorem fileTransferReqReadFile (rest : Bytes) : Statement (.fileTransferReqReadFile rest) :=
  fun _ => ⟨show kindOfSid _ = _ by simp only [Instr.sid, Instr.kind]; decide, rfl⟩
theorem fileTransferReqReadDir (rest : Bytes) : Statement (.fileTransferReqReadDir rest) :=
  fun _ => ⟨show kindOfSid _ = _ by simp only [Instr.sid, Instr.kind]; decide, rfl⟩
theorem fileTransferRspAdd (rest : Bytes) : Statement (.fileTransferRspAdd rest) :=
  fun _ => ⟨show kindOfSid _ = _ by simp only [Instr.sid, Instr.kind]; decide, rfl⟩
theorem fileTransferRspDelete (rest : Bytes) : Statement (.fileTransferRspDelete rest) :=
  fun _ => ⟨show kindOfSid _ = _ by simp only [Instr.sid, Instr.kind]; decide, rfl⟩
theorem fileTransferRspReplace (rest : Bytes) : Statement (.fileTransferRspReplace rest) :=
  fun _ => ⟨show kindOfSid _ = _ by simp only [Instr.sid, Instr.kind]; decide, rfl⟩
theorem fileTransferRspReadFile (rest : Bytes) : Statement (.fileTransferRspReadFile rest) :=
  fun _ => ⟨show kindOfSid _ = _ by simp only [Instr.sid, Instr.kind]; decide, rfl⟩
theorem fileTransferRspReadDir (rest : Bytes) : Statement (.fileTransferRspReadDir rest) :=
  fun _ => ⟨show kindOfSid _ = _ by simp only [Instr.sid, Instr.kind]; decide, rfl⟩
theorem transferDataReq (payload : Bytes) : Statement (.transferDataReq payload) :=
  fun _ => ⟨show kindOfSid _ = _ by simp only [Instr.sid, Instr.kind]; decide, rfl⟩
theorem transferDataRsp (payload : Bytes) : Statement (.transferDataRsp payload) :=
  fun _ => ⟨show kindOfSid _ = _ by simp only [Instr.sid, Instr.kind]; decide, rfl⟩
theorem transferExitReq (payload : Bytes) : Statement (.transferExitReq payload) :=
  fun _ => ⟨show kindOfSid _ = _ by simp only [Instr.sid, Instr.kind]; decide, rfl⟩
theorem transferExitRsp (payload : Bytes) : Statement (.transferExitRsp payload) :=
  fun _ => ⟨show kindOfSid _ = _ by simp only [Instr.sid, Instr.kind]; decide, rfl⟩
theorem negativeResponse (payload : Bytes) : Statement (.negativeResponse payload) :=
  fun _ => ⟨show kindOfSid _ = _ by simp only [Instr.sid, Instr.kind]; decide, rfl⟩
theorem raw (sid : Byte) (payload : Bytes) : Statement (.raw sid payload) :=
  fun h => ⟨unmapped_sid_is_raw sid (by simpa [Instr.wf] using h), rfl⟩

end Sys2Proof.Laws.SidSelectsKind
end

