-- ==== Sys2Proof/Tests/Slice0.lean ====
section
/-! SUPPORT. Tests. The expected results are those of spec/95_test_vectors.md (its vector ids stand in the comments) or
are written out by hand from the rules named. After them, for every statement with hypotheses, a witness that meets
them together, at a boundary value of each clause. -/

namespace Sys2Proof.Tests

open Sys2Proof.Machine Sys2Proof.Stated

/-! ### Helpers -/

/-- The reset state with a source and a DECODE of `plen` to come. -/
def wireState (plen : Nat) (bs : Bytes) : State :=
  { State.reset with src := { bytes := bs, pos := 0 }, host := [.decode (BitVec.ofNat 32 plen)] }

/-- The reset state with one host move to come. -/
def moveState (move : HostMove) : State := { State.reset with host := [move] }

/-- The state with other parameters. -/
def withParams (c : Params) (s : State) : State := { s with params := c }

/-- A state in which an instruction runs under DECODE, given `l`. -/
def runningState (l : Nat) : State :=
  { State.reset with cmd := some .decode, rpos := 1, l := BitVec.ofNat 32 l }

/-- The next state, the state itself where there is none. -/
def after (s : State) : State :=
  match step s with
  | .next t => t
  | .fault _ => s
  | .refused _ => s

/-- The message a step leaves. -/
def msgOf (s : State) : Option Message := (after s).msg

/-- What the fault record of a step says, its text apart. -/
def errOf (s : State) : Option (ErrKind × Cause × Option Len × Option Len) :=
  (after s).err.map fun e => (e.kind, e.cause, e.value, e.expected)

/-- What a step leaves in an empty sink. -/
def snkOf (s : State) : Bytes := (after s).snk

/-! ### Well-formedness: an ill-formed term for each check -/

/-- A Raw with a mapped SID (R252). -/
theorem test_wf_refuses_raw_with_mapped_sid : Instr.wf (.raw 0x7F [0x34, 0x10]) = false := by decide
/-- 0x3F is unmapped (D4). -/
theorem test_wf_accepts_raw_3f : Instr.wf (.raw 0x3F [0x34, 0x10]) = true := by decide
/-- The kind row with a ReportSupportedDTC payload (R109). -/
theorem test_wf_refuses_dtc_row_with_0a : Instr.wf (.readDtcReq [0x0A]) = false := by decide
/-- The kind row with a legal mode (R109). -/
theorem test_wf_refuses_file_req_row_with_mode : Instr.wf (.fileTransferReq [0x05, 0, 0]) = false := by decide
theorem test_wf_refuses_file_rsp_row_with_mode : Instr.wf (.fileTransferRsp [0x01, 0, 0]) = false := by decide

/-! ### Decoding: for every constructor a word written out from its encoding (R86 to R100, R109) -/

theorem test_decode_none : decode [] = .error .noSid := by rfl
theorem test_decode_readDidReq : decode [0x22, 0xF1, 0x90] = .ok (.readDidReq [0xF1, 0x90]) := by rfl
theorem test_decode_readDidRsp : decode [0x62, 0xF1, 0x90, 0x31] = .ok (.readDidRsp [0xF1, 0x90, 0x31]) := by rfl
theorem test_decode_writeDidReq : decode [0x2E, 0x01, 0x02, 0xAA] = .ok (.writeDidReq [0x01, 0x02, 0xAA]) := by rfl
theorem test_decode_writeDidRsp : decode [0x6E, 0x01, 0x02] = .ok (.writeDidRsp [0x01, 0x02]) := by rfl
theorem test_decode_readDtcReq : decode [0x19, 0x01, 0xFF] = .ok (.readDtcReq [0x01, 0xFF]) := by rfl
theorem test_decode_readDtcRsp : decode [0x59, 0x0A] = .ok (.readDtcRsp [0x0A]) := by rfl
theorem test_decode_reportSupported : decode [0x19, 0x0A] = .ok (.readDtcReqReportSupported []) := by rfl
theorem test_decode_requestDownloadReq :
    decode [0x34, 0x12, 0x24, 0, 0, 0x10, 0x28, 0, 0x10] =
      .ok (.requestDownloadReq [0x12, 0x24, 0, 0, 0x10, 0x28, 0, 0x10]) := by rfl
theorem test_decode_requestDownloadRsp :
    decode [0x74, 0x20, 0x04, 0x00] = .ok (.requestDownloadRsp [0x20, 0x04, 0x00]) := by rfl
theorem test_decode_fileTransferReq : decode [0x38, 0x06, 0, 0] = .ok (.fileTransferReq [0x06, 0, 0]) := by rfl
theorem test_decode_fileTransferRsp : decode [0x78, 0x00, 0, 0] = .ok (.fileTransferRsp [0x00, 0, 0]) := by rfl
theorem test_decode_fileTransferReqAdd : decode [0x38, 1, 0, 0] = .ok (.fileTransferReqAdd [0, 0]) := by rfl
theorem test_decode_fileTransferReqDelete : decode [0x38, 2, 0, 0] = .ok (.fileTransferReqDelete [0, 0]) := by rfl
theorem test_decode_fileTransferReqReplace : decode [0x38, 3, 0, 0] = .ok (.fileTransferReqReplace [0, 0]) := by rfl
theorem test_decode_fileTransferReqReadFile : decode [0x38, 4, 0, 0] = .ok (.fileTransferReqReadFile [0, 0]) := by rfl
theorem test_decode_fileTransferReqReadDir : decode [0x38, 5, 0, 0] = .ok (.fileTransferReqReadDir [0, 0]) := by rfl
theorem test_decode_fileTransferRspAdd : decode [0x78, 1, 0, 0] = .ok (.fileTransferRspAdd [0, 0]) := by rfl
theorem test_decode_fileTransferRspDelete : decode [0x78, 2, 0, 0] = .ok (.fileTransferRspDelete [0, 0]) := by rfl
theorem test_decode_fileTransferRspReplace : decode [0x78, 3, 0, 0] = .ok (.fileTransferRspReplace [0, 0]) := by rfl
theorem test_decode_fileTransferRspReadFile : decode [0x78, 4, 0, 0] = .ok (.fileTransferRspReadFile [0, 0]) := by rfl
theorem test_decode_fileTransferRspReadDir : decode [0x78, 5, 0, 0] = .ok (.fileTransferRspReadDir [0, 0]) := by rfl
theorem test_decode_transferDataReq : decode [0x36, 0x01, 0xDE] = .ok (.transferDataReq [0x01, 0xDE]) := by rfl
theorem test_decode_transferDataRsp : decode [0x76, 0x01] = .ok (.transferDataRsp [0x01]) := by rfl
theorem test_decode_transferExitReq : decode [0x37] = .ok (.transferExitReq []) := by rfl
theorem test_decode_transferExitRsp : decode [0x77, 0x01] = .ok (.transferExitRsp [0x01]) := by rfl
theorem test_decode_negativeResponse : decode [0x7F, 0x34, 0x10] = .ok (.negativeResponse [0x34, 0x10]) := by rfl
/-- X3, X8: 0x3F and 0xA2 are unmapped. -/
theorem test_decode_raw : decode [0x3F, 0x34] = .ok (.raw 0x3F [0x34]) ∧ decode [0xA2, 0] = .ok (.raw 0xA2 [0]) :=
  ⟨by rfl, by rfl⟩

/-- Two-byte table words: the SID is the more significant byte (R109). -/
theorem test_table_words :
    decodeTableWord 16 0x190A = some (.readDtcReqReportSupported []) ∧
    decodeTableWord 16 0x7805 = some (.fileTransferRspReadDir [0, 0, 0, 0, 0]) ∧
    decodeTableWord 8 0x37 = some (.transferExitReq []) := by decide

/-- The very next step runs a placed word, as the first command after reset. -/
theorem test_fetch_word : msgOf (State.reset.withFetchWord 8 0x22) = some (.readDidReq 0) := by decide

/-! ### One step: DECODE -/

/-- X1: nothing is read. -/
theorem test_plen_zero :
    errOf (wireState 0 [0x22, 0xF1, 0x90]) = some (.payloadLengthTooShort, .none, some 0, some 1) := by decide
/-- X2. -/
theorem test_no_sid : errOf (wireState 1 []) = some (.io, .none, none, none) := by decide
/-- X7: the bytes after PLEN stay. -/
theorem test_consumed :
    (after (wireState 3 [0x22, 0xF1, 0x90, 0x62, 0xF1])).src.pos = 3 ∧
      (after (wireState 3 [0x22, 0xF1, 0x90, 0x62, 0xF1])).rpos = 3 := by decide
/-- I1. -/
theorem test_readDidReq : msgOf (wireState 3 [0x22, 0xF1, 0x90]) = some (.readDidReq 0xF190) := by decide
/-- I4: too long. -/
theorem test_readDidReq_too_long :
    errOf (wireState 4 [0x22, 0xF1, 0x90, 0]) = some (.payloadLengthTooShort, .none, some 3, some 2) := by decide
/-- I9. -/
theorem test_readDidRsp :
    msgOf (wireState 6 [0x62, 0xF1, 0x90, 0x31, 0x32, 0x33]) = some (.readDidRsp 0xF190 [0x31, 0x32, 0x33]) := by decide
/-- I11: short source. -/
theorem test_readDidRsp_short_source :
    errOf (wireState 6 [0x62, 0xF1, 0x90, 0x31]) = some (.io, .none, none, none) := by decide
/-- I12. -/
theorem test_writeDidReq :
    msgOf (wireState 5 [0x2E, 1, 2, 0xAA, 0xBB]) = some (.writeDidReq 0x0102 [0xAA, 0xBB]) := by decide
/-- I14. -/
theorem test_writeDidRsp : msgOf (wireState 3 [0x6E, 1, 2]) = some (.writeDidRsp 0x0102) := by decide
/-- T9. -/
theorem test_readDtcReq :
    msgOf (wireState 6 [0x19, 3, 0, 1, 0, 2]) =
      some (.readDtcReq (.variant 3 (.seq (.ofList [.u16 1, .u16 2])))) := by decide
/-- T11: two bytes left over. -/
theorem test_readDtcReq_left_over :
    errOf (wireState 5 [0x19, 6, 0xFF, 0, 1]) = some (.payloadLengthTooShort, .none, some 4, some 2) := by decide
/-- T1. -/
theorem test_reportSupported : msgOf (wireState 2 [0x19, 0x0A]) = some (.readDtcReq (.variant 10 .unit)) := by decide
/-- T3. -/
theorem test_reportSupported_left_over :
    errOf (wireState 3 [0x19, 0x0A, 0xFF]) = some (.payloadLengthTooShort, .none, some 2, some 1) := by decide
/-- E13 as a response. -/
theorem test_readDtcRsp :
    msgOf (wireState 9 [0x59, 6, 0xFF, 0, 1, 2, 0, 3, 4]) =
      some (.readDtcRsp (.variant 6 (.record (.ofList [.u8 0xFF,
        .seq (.ofList [.record (.ofList [.u16 1, .u8 2]), .record (.ofList [.u16 3, .u8 4])])])))) := by decide
/-- T7 as a response: index 21 of 21 entries. -/
theorem test_readDtcRsp_no_entry :
    errOf (wireState 2 [0x59, 0x15]) = some (.encodingError, .protocolMismatch, none, none) := by decide
/-- S4, D1. -/
theorem test_requestDownloadReq :
    msgOf (wireState 9 [0x34, 0x12, 0x24, 0, 0, 0x10, 0x28, 0, 0x10]) =
      some (.requestDownloadReq
        { compression := 1, encryption := 2, addrBytes := 4, sizeBytes := 2, address := 0x1028, size := 0x10 }) := by
  decide
/-- D7: the address width before the size width. -/
theorem test_requestDownloadReq_width :
    errOf (wireState 9 [0x34, 0x12, 0x50, 0, 0, 0x10, 0x28, 0, 0x10]) =
      some (.unexpectedPayloadType, .none, some 0, none) := by decide
/-- D14. -/
theorem test_requestDownloadRsp : msgOf (wireState 4 [0x74, 0x20, 4, 0]) = some (.requestDownloadRsp 2 0x400) := by decide
/-- D21. -/
theorem test_requestDownloadRsp_reject :
    errOf (withParams { Config.defaults with rdRspLowNibble := .reject } (wireState 3 [0x74, 0x1F, 0x80])) =
      some (.encodingError, .none, none, none) := by decide
/-- F6: an unrecognized mode. -/
theorem test_fileTransferReq_mode :
    errOf (wireState 4 [0x38, 6, 0, 0]) = some (.encodingError, .none, none, none) := by decide
/-- F6 for the response: the reserved mode. -/
theorem test_fileTransferRsp_mode :
    errOf (wireState 4 [0x78, 0, 0, 0]) = some (.encodingError, .none, none, none) := by decide
/-- F1. -/
theorem test_fileTransferReqAdd :
    msgOf (wireState 15 [0x38, 1, 0, 5, 0x61, 0x2E, 0x62, 0x69, 0x6E, 0, 2, 0x12, 0x34, 1, 0]) =
      some (.fileTransferReq
        { mode := 1, path := [0x61, 0x2E, 0x62, 0x69, 0x6E], compression := 0, encryption := 0, fsizeBytes := 2,
          sizeUncompressed := 0x1234, sizeCompressed := 0x100 }) := by decide
/-- F2. -/
theorem test_fileTransferReqDelete :
    msgOf (wireState 6 [0x38, 2, 0, 1, 0x78, 0]) =
      some (.fileTransferReq { fileTransferDefault with mode := 2, path := [0x78] }) := by decide
/-- F14: an overlong form. -/
theorem test_fileTransferReqDelete_overlong :
    errOf (wireState 7 [0x38, 2, 0, 2, 0xC0, 0x80, 0]) = some (.encodingError, .none, none, none) := by decide
/-- F5. -/
theorem test_fileTransferReqReplace :
    msgOf (wireState 15 [0x38, 3, 0, 1, 0x78, 0x12, 4, 0, 1, 0, 0, 0, 0, 0x80, 0]) =
      some (.fileTransferReq
        { mode := 3, path := [0x78], compression := 1, encryption := 2, fsizeBytes := 4,
          sizeUncompressed := 0x10000, sizeCompressed := 0x8000 }) := by decide
/-- F3. -/
theorem test_fileTransferReqReadFile :
    msgOf (wireState 8 [0x38, 4, 0, 1, 0x78, 1, 0x10, 8]) =
      some (.fileTransferReq
        { mode := 4, path := [0x78], compression := 0, encryption := 0, fsizeBytes := 1,
          sizeUncompressed := 0x10, sizeCompressed := 8 }) := by decide
/-- F4. -/
theorem test_fileTransferReqReadDir :
    msgOf (wireState 7 [0x38, 5, 0, 0, 1, 0, 0]) =
      some (.fileTransferReq { fileTransferDefault with mode := 5, fsizeBytes := 1 }) := by decide
/-- The layout of F10 with the response SID: the width 3. -/
theorem test_fileTransferRspAdd_width :
    errOf (wireState 13 [0x78, 1, 0, 1, 0x78, 0, 3, 0, 0, 0, 0, 0, 0]) =
      some (.unexpectedPayloadType, .none, some 3, none) := by decide
/-- F16. -/
theorem test_fileTransferRspDelete :
    msgOf (wireState 6 [0x78, 2, 0, 1, 0x78, 0]) =
      some (.fileTransferRsp { fileTransferDefault with mode := 2, path := [0x78] }) := by decide
/-- The layout of F11 with the response SID and mode replace. -/
theorem test_fileTransferRspReplace_length :
    errOf (wireState 10 [0x78, 3, 0, 1, 0x78, 0, 2, 0x12, 0x34, 1]) =
      some (.payloadLengthTooShort, .none, some 9, some 10) := by decide
/-- F18 for the response. -/
theorem test_fileTransferRspReadFile :
    msgOf (withParams { Config.defaults with rftReadHasSize := false } (wireState 5 [0x78, 4, 0, 1, 0x78])) =
      some (.fileTransferRsp { fileTransferDefault with mode := 4, path := [0x78] }) := by decide
/-- F4 with the response SID. -/
theorem test_fileTransferRspReadDir :
    msgOf (wireState 7 [0x78, 5, 0, 0, 1, 0, 0]) =
      some (.fileTransferRsp { fileTransferDefault with mode := 5, fsizeBytes := 1 }) := by decide
/-- R1. -/
theorem test_transferDataReq :
    msgOf (wireState 6 [0x36, 1, 0xDE, 0xAD, 0xBE, 0xEF]) = some (.transferDataReq 1 [0xDE, 0xAD, 0xBE, 0xEF]) := by
  decide
/-- R5. -/
theorem test_transferDataRsp_too_long :
    errOf (wireState 3 [0x76, 1, 0]) = some (.payloadLengthTooShort, .none, some 2, some 1) := by decide
/-- R7. -/
theorem test_transferExitReq : msgOf (wireState 1 [0x37]) = some (.transferExitReq []) := by decide
/-- R10. -/
theorem test_transferExitRsp : msgOf (wireState 2 [0x77, 1]) = some (.transferExitRsp [1]) := by decide
/-- N1. -/
theorem test_negativeResponse : msgOf (wireState 3 [0x7F, 0x34, 0x10]) = some (.negativeResponse 0x34 0x10) := by decide
/-- X4. -/
theorem test_raw : msgOf (wireState 2 [0xC1, 0]) = some (.raw [0xC1, 0]) := by decide

/-! ### One step: ENCODE, LENGTH, UPGRADE -/

/-- I16. -/
theorem test_encode_writeDidReq : snkOf (moveState (.encode (.writeDidReq 0x0102 [0xAA, 0xBB]))) = [0x2E, 1, 2, 0xAA, 0xBB] := by
  decide
/-- S4. -/
theorem test_encode_requestDownloadReq :
    snkOf (moveState (.encode (.requestDownloadReq
      { compression := 1, encryption := 2, addrBytes := 4, sizeBytes := 2, address := 0x1028, size := 0x10 }))) =
      [0x34, 0x12, 0x24, 0, 0, 0x10, 0x28, 0, 0x10] := by decide
/-- F19: the size fields are ignored. -/
theorem test_encode_fileTransferReq :
    snkOf (moveState (.encode (.fileTransferReq
      { mode := 2, path := [0x78], compression := 3, encryption := 0, fsizeBytes := 9,
        sizeUncompressed := 7, sizeCompressed := 7 }))) = [0x38, 2, 0, 1, 0x78, 0x30] := by decide
/-- D12: a value that does not fit is a fault, not a truncation. -/
theorem test_encode_value_too_large :
    errOf (moveState (.encode (.requestDownloadReq
      { compression := 0, encryption := 0, addrBytes := 2, sizeBytes := 2, address := 0x12345, size := 0 }))) =
      some (.encodingError, .none, none, none) := by decide
/-- T13. -/
theorem test_encode_unsupported :
    errOf (moveState (.encode (.readDtcReq (.variant 5 .placeholder)))) =
      some (.encodingError, .protocolMismatch, none, none) := by decide
/-- R123: integers are written most significant byte first at their full width (the spec's own two examples). -/
theorem test_engine_integers :
    engineEncode .u16 (.u16 0x1234) = .ok [0x12, 0x34] ∧ engineEncode .u32 (.u32 1) = .ok [0, 0, 0, 1] ∧
      engineDecode .u16 [0x12, 0x34] 0 = .ok (.u16 0x1234, 2) ∧
      engineDecode .u16 [0x12] 0 = .error .insufficientData := ⟨by rfl, by rfl, by rfl, by rfl⟩
/-- R126, R127: fields in order; a sequence leaves an incomplete element unread (the spec's own two examples). -/
theorem test_engine_record_and_sequence :
    engineEncode (.record (.ofList [("mask", .u8), ("record", .u8)])) (.record (.ofList [.u8 0xFF, .u8 1])) =
        .ok [0xFF, 1] ∧
      engineDecode (.seq .u16) [0, 1, 0, 2, 3] 0 = .ok (.seq (.ofList [.u16 1, .u16 2]), 4) := ⟨by rfl, by rfl⟩
/-- X20. -/
theorem test_length :
    (after (moveState (.length (.fileTransferReq
      { mode := 1, path := [0x61, 0x2E, 0x62, 0x69, 0x6E], compression := 0, encryption := 0, fsizeBytes := 2,
        sizeUncompressed := 0, sizeCompressed := 0 })))).lengthOut = some 15 := by decide
/-- X9. -/
theorem test_upgrade : msgOf (moveState (.upgrade (.raw [0x22, 0xF1, 0x90]))) = some (.readDidReq 0xF190) := by decide
/-- X10: the nested fault is dropped. -/
theorem test_upgrade_fault :
    msgOf (moveState (.upgrade (.raw [0x22, 0xF1]))) = some (.raw [0x22, 0xF1]) ∧
      (after (moveState (.upgrade (.raw [0x22, 0xF1])))).status = .ok := by decide

/-- R26, R270: after a failed ENCODE MSG is unwritten and the host's own message is untouched. -/
theorem test_failed_encode_message :
    msgOf (moveState (.encode (.requestDownloadRsp 1 0x100))) = none ∧
      (after (moveState (.encode (.requestDownloadRsp 1 0x100)))).arg = some (.requestDownloadRsp 1 0x100) := by decide
/-- R53, R310 (5): the host supplies a sink that holds bytes, and drains its oldest ones. -/
theorem test_supply_sink : snkOf (moveState (.loadSink [1, 2, 3])) = [1, 2, 3] := by decide
theorem test_drain_sink : snkOf { moveState (.drainSink 2) with snk := [1, 2, 3] } = [3] := by decide
/-- D34, R54: an ENCODE appends to what a supplied sink holds. -/
theorem test_encode_after_supplied : snkOf { moveState (.encode (.transferExitReq [])) with snk := [1] } = [1, 0x37] := by
  decide

/-! ### Witnesses: for each statement with hypotheses, a case that meets them together -/

theorem step_after_of {s t : State} (h : step s = .next t) : after s = t := by simp [after, h]

theorem witness_DecodeInvertsEncode : Instr.wf (.raw 0xFF []) = true ∧ Instr.wf (.readDtcReq [0x09]) = true := by decide

theorem witness_EveryStringIsOneInstruction :
    Instr.wf (.raw 0x3F []) = true ∧ encode (.raw 0x3F []) = [0x3F] := by decide

theorem witness_SidsAndKindsCorrespond : Kind.negativeResponse ≠ .raw ∧ (0x3F : Byte) ∉ mappedSids := by decide

theorem witness_BigEndianInverse : 255 < 256 ^ 1 ∧ 0 < 256 ^ 0 := by decide

theorem witness_VariableWidthRoundTrip :
    ((4 = 1 ∨ 4 = 2 ∨ 4 = 4) ∧ (0xFFFFFFFF : Word).toNat < 256 ^ 4 ∧ Config.defaults.snkCap = none) ∧
    ((1 = 1 ∨ 1 = 2 ∨ 1 = 4) ∧ (0xFF : Word).toNat < 256 ^ 1) ∧
    (([0xFF] : Bytes).length = 1 ∨ ([0xFF] : Bytes).length = 2 ∨ ([0xFF] : Bytes).length = 4) := by decide

/-- E13, E19. -/
def maskThenList : Val :=
  .variant 6 (.record (.ofList [.u8 0xFF, .seq (.ofList [.record (.ofList [.u16 1, .u8 2])])]))

theorem witness_FieldPrimitives : ([0x04] : Bytes).length < 2 := by decide

theorem witness_EngineDecodeInvertsEncode :
    tableOk Config.exampleTable = true ∧ hasShape (.union Config.exampleTable) maskThenList = true ∧
      meetsNoUnsupported (.union Config.exampleTable) maskThenList = true ∧
      hasShape (.union Config.exampleTable) (.variant 20 .unit) = true ∧
      meetsNoUnsupported (.union Config.exampleTable) (.variant 20 .unit) = true ∧
      hasShape (.union Config.exampleTable) (.variant 5 .placeholder) = true ∧
      meetsNoUnsupported (.union Config.exampleTable) (.variant 5 .placeholder) = false := by decide

theorem witness_EngineEncodeInvertsDecode :
    tableOk Config.exampleTable = true ∧
      engineDecode (.union Config.exampleTable) [6, 0xFF, 0, 1, 2] 0 = .ok (maskThenList, ([6, 0xFF, 0, 1, 2] : Bytes).length) :=
  ⟨by decide, by rfl⟩

/-- The whole engine on one buffer: a value, the two failures, and the rule that gives one of them. -/
theorem witness_EngineDecodesValuesOfTheShape :
    tableOk Config.exampleTable = true ∧
      engineDecode (.union Config.exampleTable) [6, 0xFF, 0, 1, 2, 0] 0 = .ok (maskThenList, 5) ∧
      engineDecode (.union Config.exampleTable) [] 0 = .error .insufficientData ∧
      Reads (.union Config.exampleTable) [] 0 (.error .insufficientData) ∧
      engineDecode (.union Config.exampleTable) [0x15] 0 = .error .protocolMismatch ∧
      Reads (.union Config.exampleTable) [0x15] 0 (.error .protocolMismatch) :=
  ⟨by decide, by rfl, by rfl, .unionShort (by decide), by rfl, .unionNoEntry rfl (by decide)⟩

/-- The smallest allocation limit that a field of `n` bytes meets. -/
theorem allocates_exactly (n : Nat) : allocates { Config.defaults with maxAlloc := some n } n := by
  intro most h
  cases h
  exact Nat.le_refl n

theorem allocates_default (n : Nat) : allocates Config.defaults n := by
  intro most h
  cases h

theorem witness_DidLayoutDecodes : (runningState 2).cmd = some .decode ∧ (runningState 2).l = 2 := by decide

theorem witness_DidDataLayoutDecodes :
    ((runningState 2).cmd = some .decode ∧ (runningState 2).l.toNat = 2 + ([] : Bytes).length ∧
      allocates (runningState 2).params ([] : Bytes).length) ∧
    ((runningState 3).l.toNat = 2 + ([0xAA] : Bytes).length ∧
      allocates (withParams { Config.defaults with maxAlloc := some 1 } (runningState 3)).params
        ([0xAA] : Bytes).length) :=
  ⟨⟨by decide, by decide, allocates_default 0⟩, by decide, allocates_exactly 1⟩

theorem witness_TransferDataDecodes :
    ((runningState 1).cmd = some .decode ∧ (runningState 1).l.toNat = 1 + ([] : Bytes).length ∧
      allocates (runningState 1).params ([] : Bytes).length) ∧ (runningState 1).l = 1 :=
  ⟨⟨by decide, by decide, allocates_default 0⟩, by decide⟩

theorem witness_TransferExitDecodes :
    (runningState 0).cmd = some .decode ∧ (runningState 0).l.toNat = ([] : Bytes).length ∧
      allocates (runningState 0).params ([] : Bytes).length :=
  ⟨by decide, by decide, allocates_default 0⟩

theorem witness_NegativeResponseDecodes : (runningState 2).cmd = some .decode ∧ (runningState 2).l = 2 := by decide

theorem witness_RawDecodes :
    (runningState 1).cmd = some .decode ∧ (runningState 1).l.toNat = ([0x03] : Bytes).length ∧
      allocates (runningState 1).params ([0x03] : Bytes).length :=
  ⟨by decide, by decide, allocates_default 1⟩

theorem witness_RequestDownloadReqDecodes :
    (runningState 7).cmd = some .decode ∧
      (([0xFF] : Bytes).length = 1 ∨ ([0xFF] : Bytes).length = 2 ∨ ([0xFF] : Bytes).length = 4) ∧
      (([0, 0, 0, 1] : Bytes).length = 1 ∨ ([0, 0, 0, 1] : Bytes).length = 2 ∨ ([0, 0, 0, 1] : Bytes).length = 4) ∧
      (runningState 7).l.toNat = 2 + ([0xFF] : Bytes).length + ([0, 0, 0, 1] : Bytes).length := by decide

theorem witness_RequestDownloadRspDecodes :
    (runningState 3).cmd = some .decode ∧
      (([4, 0] : Bytes).length = 1 ∨ ([4, 0] : Bytes).length = 2 ∨ ([4, 0] : Bytes).length = 4) ∧
      (runningState 3).l.toNat = 1 + ([4, 0] : Bytes).length ∧
      ((runningState 3).params.rdRspLowNibble = .ignore ∨ (15 : Nibble) = 0) := by decide

/-- The message of F2 with the mode given, its groups empty or of width 1. -/
def fileFields (mode fsizeBytes : Byte) : FileTransfer :=
  { fileTransferDefault with mode := mode, path := [0x78], fsizeBytes := fsizeBytes }

theorem witness_FileTransferDecodes :
    (∀ f ∈ [fileFields 1 1, fileFields 2 0, fileFields 3 4, fileFields 4 2, fileFields 5 1],
      firstIllFormedFile Config.defaults f = none ∧ normalFile Config.defaults f = f) ∧
    ((runningState 8).cmd = some .decode ∧ (runningState 8).params = Config.defaults ∧
      (runningState 8).l.toNat = 1 + (fileTransferTail Config.defaults (fileFields 1 1)).length) ∧
    (runningState 5).l.toNat = 1 + (fileTransferTail Config.defaults (fileFields 2 0)).length := by decide

theorem witness_DtcDecodes :
    (runningState 5).cmd = some .decode ∧ (runningState 5).l.toNat = ([6, 0xFF, 0, 1, 2] : Bytes).length ∧
      reqTableOk (runningState 5).params.dtcReqTable = true ∧ tableOk (runningState 5).params.dtcRspTable = true ∧
      engineDecode (.union (runningState 5).params.dtcReqTable) [6, 0xFF, 0, 1, 2] 0 =
        .ok (maskThenList, ([6, 0xFF, 0, 1, 2] : Bytes).length) ∧
      engineDecode (.union (runningState 5).params.dtcRspTable) [6, 0xFF, 0, 1, 2] 0 =
        .ok (maskThenList, ([6, 0xFF, 0, 1, 2] : Bytes).length) :=
  ⟨by decide, by decide, by decide, by decide, by rfl, by rfl⟩

theorem starts (plen : Nat) (sid : Byte) (more : Bytes) (h : BitVec.ofNat 32 plen ≠ 0) :
    decodeStarts (wireState plen (sid :: more)) (BitVec.ofNat 32 plen) sid :=
  ⟨[], more, rfl, rfl, h⟩

theorem witness_ReportSupportedDecodes :
    ((runningState 1).cmd = some .decode ∧ reqTableOk (runningState 1).params.dtcReqTable = true ∧
      (runningState 1).l = 1) ∧
    (decodeStarts (wireState 3 [0x19, 0x0A, 0xFF]) 3 0x19 ∧
      remaining (wireState 3 [0x19, 0x0A, 0xFF]) = 0x19 :: 0x0A :: [0xFF] ∧ 2 < (3 : Len).toNat ∧
      (3 : Len).toNat ≤ 2 + ([0xFF] : Bytes).length) :=
  ⟨by decide, starts 3 _ _ (by decide), by decide⟩

theorem witness_StepRunsTheDecodedInstruction :
    ((wireState 2 [0x19, 0x0A, 0xFF]).host = .decode 2 :: [] ∧ (2 : Len) ≠ 0 ∧
      decode ((remaining (wireState 2 [0x19, 0x0A, 0xFF])).take (2 : Len).toNat) = .ok (.readDtcReqReportSupported []) ∧
      Instr.wf (.readDtcReqReportSupported []) = true) ∧
    (moveState (.encode (.raw []))).host = .encode (.raw []) :: [] ∧
    (moveState (.upgrade (.raw []))).host = .upgrade (.raw []) :: [] ∧
    (moveState (.length (.raw []))).host = .length (.raw []) :: [] :=
  ⟨⟨by decide, by decide, by rfl, by decide⟩, by decide, by decide, by decide⟩

/-- A DECODE that succeeds, with a byte left in the source. -/
def decodedState : State := wireState 3 [0x22, 0xF1, 0x90, 0x62]

theorem decodedState_step : step decodedState = .next (after decodedState) := by rfl

theorem witness_DecodeConsumesExactly :
    decodedState.host = .decode 3 :: [] ∧ step decodedState = .next (after decodedState) ∧
      (after decodedState).status = .ok :=
  ⟨by decide, decodedState_step, by decide⟩

/-- A DECODE that faults (N3). -/
def faultedState : State := wireState 2 [0x7F, 0x34]

theorem faultedState_step : step faultedState = .next (after faultedState) := by rfl

theorem witness_DecodeFaultReturnsNoMessage :
    faultedState.host = .decode 2 :: [] ∧ step faultedState = .next (after faultedState) ∧
      (after faultedState).status = .fault ∧ faultedState.src.pos ≤ faultedState.src.bytes.length :=
  ⟨by decide, faultedState_step, by decide, by decide⟩

theorem witness_ZeroLengthFaultsFirst : (wireState 0 [0x22]).host = .decode 0 :: [] := by decide

theorem witness_AbsentSidIsIo :
    (wireState 1 []).host = .decode 1 :: [] ∧ (1 : Len) ≠ 0 ∧
      (wireState 1 []).src.pos = (wireState 1 []).src.bytes.length := by decide

/-- One too short and one too long for each SID of the statement. -/
theorem witness_FixedShapesRejectOtherLengths :
    (∀ x ∈ ([(0x22, 2), (0x6E, 2), (0x76, 1), (0x7F, 2)] : List (Byte × Nat)),
      decodeStarts (wireState x.2 [x.1]) (BitVec.ofNat 32 x.2) x.1 ∧ (BitVec.ofNat 32 x.2).toNat - 1 ≠ x.2 ∧
      decodeStarts (wireState (x.2 + 2) [x.1]) (BitVec.ofNat 32 (x.2 + 2)) x.1 ∧
      (BitVec.ofNat 32 (x.2 + 2)).toNat - 1 ≠ x.2) := by
  intro x hx
  refine ⟨starts _ _ _ ?_, ?_, starts _ _ _ ?_, ?_⟩ <;> revert x <;> decide

/-- One too short for each SID of the statement. -/
theorem witness_ShortLengthsFault :
    ∀ x ∈ ([(0x62, 2), (0x2E, 2), (0x34, 2), (0x74, 1), (0x38, 3), (0x78, 3), (0x36, 1)] : List (Byte × Nat)),
      decodeStarts (wireState x.2 [x.1]) (BitVec.ofNat 32 x.2) x.1 ∧ (BitVec.ofNat 32 x.2).toNat - 1 < x.2 := by
  intro x hx
  refine ⟨starts _ _ _ ?_, ?_⟩ <;> revert x <;> decide

/-- The declared bytes end one byte early, for both forms of the length condition. -/
theorem witness_ShortSourceIsIo :
    (((0x37, 0) ∈ ([(0x62, 2), (0x2E, 2), (0x36, 1), (0x37, 0), (0x77, 0)] : List (Byte × Nat)) ∧
        0 ≤ (2 : Len).toNat - 1) ∧
      allocates (wireState 2 [0x37]).params ((2 : Len).toNat - 1) ∧ decodeStarts (wireState 2 [0x37]) 2 0x37 ∧
      (remaining (wireState 2 [0x37])).length < (2 : Len).toNat) ∧
    (((0x7F, 2) ∈ ([(0x22, 2), (0x6E, 2), (0x76, 1), (0x7F, 2)] : List (Byte × Nat)) ∧ 2 = (3 : Len).toNat - 1) ∧
      allocates (wireState 3 [0x7F, 0x34]).params ((3 : Len).toNat - 1) ∧
      decodeStarts (wireState 3 [0x7F, 0x34]) 3 0x7F ∧
      (remaining (wireState 3 [0x7F, 0x34])).length < (3 : Len).toNat) :=
  ⟨⟨by decide, allocates_default _, starts 2 _ _ (by decide), by decide⟩,
    by decide, allocates_default _, starts 3 _ _ (by decide), by decide⟩

/-- T4 in both directions. -/
theorem witness_ShortSourceIsIo_staging :
    (reqTableOk (wireState 3 [0x19, 0x0A]).params.dtcReqTable = true ∧ decodeStarts (wireState 3 [0x19, 0x0A]) 3 0x19 ∧
      (remaining (wireState 3 [0x19, 0x0A])).length < (3 : Len).toNat) ∧
    (tableOk (wireState 3 [0x59, 0x0A]).params.dtcRspTable = true ∧ decodeStarts (wireState 3 [0x59, 0x0A]) 3 0x59 ∧
      (remaining (wireState 3 [0x59, 0x0A])).length < (3 : Len).toNat) :=
  ⟨⟨by decide, starts 3 _ _ (by decide), by decide⟩, by decide, starts 3 _ _ (by decide), by decide⟩

/-- F12, and a mode without a size group one byte short in its path. -/
theorem witness_ShortSourceIsIo_path :
    (decodeStarts (wireState 15 [0x38, 1, 0, 5, 0x61]) 15 0x38 ∧
      remaining (wireState 15 [0x38, 1, 0, 5, 0x61]) = 0x38 :: 1 :: 0 :: 5 :: [0x61] ∧
      ([0x61] : Bytes).length < (0 : Byte).toNat * 256 + (5 : Byte).toNat ∧
      (if carriesSize Config.defaults 1 then 3 + 5 + 1 + 1 ≤ (15 : Len).toNat - 1 else (15 : Len).toNat - 1 = 3 + 5 + 1 + 1)) ∧
    (decodeStarts (wireState 6 [0x78, 2, 0, 1]) 6 0x78 ∧
      remaining (wireState 6 [0x78, 2, 0, 1]) = 0x78 :: 2 :: 0 :: 1 :: [] ∧
      ([] : Bytes).length < (0 : Byte).toNat * 256 + (1 : Byte).toNat ∧
      (if carriesSize Config.defaults 2 then 3 + 1 + 1 ≤ (6 : Len).toNat - 1 else (6 : Len).toNat - 1 = 3 + 1 + 1)) :=
  ⟨⟨starts 15 _ _ (by decide), by decide⟩, starts 6 _ _ (by decide), by decide⟩

/-- D10, D19 and F12 with the missing bytes, and no byte at all. -/
theorem witness_ShortSourceIsIo_completed :
    ∀ x ∈ ([(9, [0x34, 0x12, 0x24, 0, 0, 0x10], [0x28, 0, 0x10]), (4, [0x74, 0x20, 4], [0]),
        (6, [0x38, 2, 0, 1, 0x78], [0]), (1, [], [0x37])] : List (Nat × Bytes × Bytes)),
      (wireState x.1 x.2.1).host = .decode (BitVec.ofNat 32 x.1) :: [] ∧
      (wireState x.1 x.2.1).src.pos ≤ (wireState x.1 x.2.1).src.bytes.length ∧
      (after { wireState x.1 x.2.1 with src := { bytes := x.2.1 ++ x.2.2, pos := 0 } }).status = .ok ∧
      (after { wireState x.1 x.2.1 with src := { bytes := x.2.1 ++ x.2.2, pos := 0 } }).msg ≠ none ∧
      (remaining (wireState x.1 x.2.1)).length < (BitVec.ofNat 32 x.1).toNat := by decide

/-- D7, D6 and D9, and the shortest length that reaches the widths. -/
theorem witness_RequestDownloadReqFaults :
    (decodeStarts (wireState 3 [0x34, 0x12, 0x50]) 3 0x34 ∧
      remaining (wireState 3 [0x34, 0x12, 0x50]) = 0x34 :: 0x12 :: nibbles 5 0 :: [] ∧ 3 ≤ (3 : Len).toNat ∧
      legalWidth (0 : Nibble).toNat = false) ∧
    (decodeStarts (wireState 3 [0x34, 0x12, 0x34]) 3 0x34 ∧
      remaining (wireState 3 [0x34, 0x12, 0x34]) = 0x34 :: 0x12 :: nibbles 3 4 :: [] ∧
      legalWidth (4 : Nibble).toNat = true ∧ legalWidth (3 : Nibble).toNat = false) ∧
    (decodeStarts (wireState 10 [0x34, 0x12, 0x24]) 10 0x34 ∧
      remaining (wireState 10 [0x34, 0x12, 0x24]) = 0x34 :: 0x12 :: nibbles 2 4 :: [] ∧
      legalWidth (2 : Nibble).toNat = true ∧ (10 : Len).toNat - 1 ≠ 2 + (4 : Nibble).toNat + (2 : Nibble).toNat) :=
  ⟨⟨starts 3 _ _ (by decide), by decide⟩, ⟨starts 3 _ _ (by decide), by decide⟩, starts 10 _ _ (by decide), by decide⟩

/-- D21, D17 and D19. -/
theorem witness_RequestDownloadRspFaults :
    (decodeStarts (withParams { Config.defaults with rdRspLowNibble := .reject } (wireState 3 [0x74, 0x11, 0x80])) 3
        0x74 ∧
      remaining (wireState 3 [0x74, 0x11, 0x80]) = 0x74 :: nibbles 1 1 :: [0x80] ∧ 2 ≤ (3 : Len).toNat ∧
      (withParams { Config.defaults with rdRspLowNibble := .reject } (wireState 3 [0x74, 0x11, 0x80])).params.rdRspLowNibble =
        .reject ∧ (1 : Nibble) ≠ 0) ∧
    (decodeStarts (wireState 2 [0x74, 0x00]) 2 0x74 ∧ remaining (wireState 2 [0x74, 0x00]) = 0x74 :: nibbles 0 0 :: [] ∧
      2 ≤ (2 : Len).toNat ∧ (wireState 2 [0x74, 0x00]).params.rdRspLowNibble = .ignore ∧
      legalWidth (0 : Nibble).toNat = false) ∧
    (decodeStarts (wireState 3 [0x74, 0x20, 4]) 3 0x74 ∧
      remaining (wireState 3 [0x74, 0x20, 4]) = 0x74 :: nibbles 2 0 :: [4] ∧ legalWidth (2 : Nibble).toNat = true ∧
      (3 : Len).toNat - 1 ≠ 1 + (2 : Nibble).toNat) :=
  ⟨⟨⟨[], [0x11, 0x80], rfl, rfl, by decide⟩, by decide⟩, ⟨starts 2 _ _ (by decide), by decide⟩,
    starts 3 _ _ (by decide), by decide⟩

/-- F6 at both ends of the legal modes, F9, F11 one byte short of the fixed part, and F8. -/
theorem witness_FileTransferFaults :
    (decodeStarts (wireState 4 [0x38, 0, 0, 0]) 4 0x38 ∧ remaining (wireState 4 [0x38, 0, 0, 0]) = 0x38 :: 0 :: [0, 0] ∧
      4 ≤ (4 : Len).toNat ∧ ((0 : Byte).toNat < 1 ∨ 5 < (6 : Byte).toNat)) ∧
    (decodeStarts (wireState 6 [0x78, 2, 0, 2, 0x78, 0]) 6 0x78 ∧ 1 ≤ (2 : Byte).toNat ∧ (5 : Byte).toNat ≤ 5 ∧
      (if carriesSize Config.defaults 2 then (6 : Len).toNat - 1 < 3 + 2 + 1 else (6 : Len).toNat - 1 ≠ 3 + 2 + 1)) ∧
    (decodeStarts (wireState 6 [0x38, 1, 0, 1, 0x78, 0]) 6 0x38 ∧
      (if carriesSize Config.defaults 1 then (6 : Len).toNat - 1 < 3 + 1 + 2 else (6 : Len).toNat - 1 ≠ 3 + 1 + 2)) ∧
    (decodeStarts (wireState 6 [0x38, 2, 0, 1, 0xFF, 0]) 6 0x38 ∧
      (if carriesSize Config.defaults 2 then 3 + 1 + 1 ≤ (6 : Len).toNat - 1 else (6 : Len).toNat - 1 = 3 + 1 + 1) ∧
      1 ≤ ([0xFF, 0] : Bytes).length ∧ validUtf8 (([0xFF, 0] : Bytes).take 1) = false) :=
  ⟨⟨starts 4 _ _ (by decide), by decide⟩, ⟨starts 6 _ _ (by decide), by decide⟩,
    ⟨starts 6 _ _ (by decide), by decide⟩, starts 6 _ _ (by decide), by decide⟩

/-- F10 and F11, and the shortest length that reaches the width byte. -/
theorem witness_FileTransferSizeGroupFaults :
    (decodeStarts (wireState 7 [0x38, 1, 0, 1, 0x78, 0, 3]) 7 0x38 ∧ carriesSize Config.defaults 1 = true ∧
      ([0x78] : Bytes).length = (0 : Byte).toNat * 256 + (1 : Byte).toNat ∧ validUtf8 [0x78] = true ∧
      ([0] : Bytes).length = (if carriesMethod Config.defaults 1 then 1 else 0) ∧
      remaining (wireState 7 [0x38, 1, 0, 1, 0x78, 0, 3]) = 0x38 :: 1 :: 0 :: 1 :: ([0x78] ++ [0] ++ 3 :: []) ∧
      4 + ([0x78] : Bytes).length + ([0] : Bytes).length < (7 : Len).toNat ∧ legalWidth (3 : Byte).toNat = false) ∧
    (decodeStarts (wireState 9 [0x78, 4, 0, 1, 0x78, 2]) 9 0x78 ∧ carriesSize Config.defaults 4 = true ∧
      ([] : Bytes).length = (if carriesMethod Config.defaults 4 then 1 else 0) ∧ legalWidth (2 : Byte).toNat = true ∧
      remaining (wireState 9 [0x78, 4, 0, 1, 0x78, 2]) = 0x78 :: 4 :: 0 :: 1 :: ([0x78] ++ [] ++ 2 :: []) ∧
      4 + ([0x78] : Bytes).length + ([] : Bytes).length < (9 : Len).toNat ∧
      (9 : Len).toNat - 1 ≠ 4 + ([0x78] : Bytes).length + ([] : Bytes).length + 2 * (2 : Byte).toNat) :=
  ⟨⟨starts 7 _ _ (by decide), by decide⟩, starts 9 _ _ (by decide), by decide⟩

/-- T6, T7, T3 and T2, in both directions. -/
theorem witness_DtcFaults :
    ∀ sid ∈ ([0x19, 0x59] : Bytes),
      (sid = 0x19 ∧ Config.exampleTable = State.reset.params.dtcReqTable ∧ reqTableOk Config.exampleTable = true ∨
        sid = 0x59 ∧ Config.exampleTable = State.reset.params.dtcRspTable ∧ tableOk Config.exampleTable = true) ∧
      (decodeStarts (wireState 2 [sid, 1]) 2 sid ∧ remaining (wireState 2 [sid, 1]) = sid :: ([1] ++ []) ∧
        (2 : Len).toNat = 1 + ([1] : Bytes).length ∧
        engineDecode (.union Config.exampleTable) [1] 0 = .error .insufficientData) ∧
      (decodeStarts (wireState 2 [sid, 0x15]) 2 sid ∧
        engineDecode (.union Config.exampleTable) [0x15] 0 = .error .protocolMismatch) ∧
      (decodeStarts (wireState 3 [sid, 0x0A, 0xFF]) 3 sid ∧
        engineDecode (.union Config.exampleTable) [0x0A, 0xFF] 0 = .ok (.variant 10 .unit, 1) ∧
        1 ≠ ([0x0A, 0xFF] : Bytes).length) ∧
      (decodeStarts (wireState 1 [sid]) 1 sid ∧ (1 : Len).toNat = 1 + ([] : Bytes).length) := by
  intro sid h
  refine ⟨?_, ⟨starts 2 _ _ (by decide), rfl, by decide, by rfl⟩, ⟨starts 2 _ _ (by decide), by rfl⟩,
    ⟨starts 3 _ _ (by decide), by rfl, by decide⟩, starts 1 _ _ (by decide), by decide⟩
  simp only [List.mem_cons, List.not_mem_nil, or_false] at h
  obtain rfl | rfl := h
  · exact .inl ⟨rfl, rfl, by decide⟩
  · exact .inr ⟨rfl, rfl, by decide⟩

theorem witness_SidDecidesTheKind :
    (decodeStarts decodedState 3 0x22 ∧ step decodedState = .next (after decodedState) ∧
      (after decodedState).msg = some (.readDidReq 0xF190)) ∧
    (decodeStarts (wireState 1 [0x01]) 1 0x01 ∧ step (wireState 1 [0x01]) = .next (after (wireState 1 [0x01])) ∧
      (after (wireState 1 [0x01])).msg = some (.raw [0x01]) ∧ (0x01 : Byte) ∉ mappedSids) :=
  ⟨⟨starts 3 _ _ (by decide), decodedState_step, by decide⟩, starts 1 _ _ (by decide), by rfl, by decide⟩

theorem witness_UnmappedSidNeverFaults :
    (∀ plen ∈ [0, 2, 3], (wireState plen [0xFF, 0]).host = .decode (BitVec.ofNat 32 plen) :: [] ∧
      remaining (wireState plen [0xFF, 0]) = 0xFF :: [0] ∧ (0xFF : Byte) ∉ mappedSids) ∧
    (∀ plen : Len, allocates (wireState 2 [0xFF, 0]).params (plen.toNat - 1)) ∧
    ([0xFF, 0] : Bytes).length < (3 : Len).toNat ∧ (2 : Len) ≠ 0 ∧ (2 : Len).toNat ≤ ([0xFF, 0] : Bytes).length ∧
    (wireState 2 [0xFF, 0]).params.snkCap = none :=
  ⟨by decide, fun _ => allocates_default _, by decide⟩

theorem witness_TransferExitAndRawRaiseOnlyIo :
    ∀ sid ∈ ([0x37, 0x77, 0x01] : Bytes), (sid = 0x37 ∨ sid = 0x77 ∨ sid ∉ mappedSids) ∧
      decodeStarts (wireState 2 [sid]) 2 sid ∧ step (wireState 2 [sid]) = .next (after (wireState 2 [sid])) ∧
      (after (wireState 2 [sid])).err = some (CodecError.record (Config.freeText 0) (.io .none)) := by
  intro sid h
  simp only [List.mem_cons, List.not_mem_nil, or_false] at h
  obtain rfl | rfl | rfl := h
  · exact ⟨by decide, starts 2 _ _ (by decide), by rfl, by rfl⟩
  · exact ⟨by decide, starts 2 _ _ (by decide), by rfl, by rfl⟩
  · exact ⟨by decide, starts 2 _ _ (by decide), by rfl, by rfl⟩

/-- D16. -/
theorem witness_UnexpectedPayloadTypeIsAWidth :
    (wireState 5 [0x74, 0x30, 0, 0, 1]).host = .decode 5 :: [] ∧ startsCommand (.decode 5) = true ∧
      step (wireState 5 [0x74, 0x30, 0, 0, 1]) = .next (after (wireState 5 [0x74, 0x30, 0, 0, 1])) ∧
      (after (wireState 5 [0x74, 0x30, 0, 0, 1])).err =
        some (CodecError.record (Config.freeText 0) (.unexpectedPayloadType 3)) :=
  ⟨by decide, by decide, by rfl, by rfl⟩

theorem witness_BytesBeyondPlenAreNotRead :
    decodedState.host = .decode 3 :: [] ∧ ([0x22, 0xF1, 0x90] : Bytes).length = (3 : Len).toNat ∧
      step { decodedState with src := { bytes := [0x22, 0xF1, 0x90] ++ [0x62], pos := 0 } } =
        .next (after decodedState) :=
  ⟨by decide, by decide, by rfl⟩

/-- A state in which an instruction runs a command on a message. -/
def commandState (cmd : Cmd) (m : Message) : State := { State.reset with cmd := some cmd, msg := some m }

/-- The walk of ReportSupportedDTC over the example table meets nothing unsupported. -/
theorem reportSupported_clear : ¬ ReachesUnsupported (.union Config.exampleTable) (.variant 10 .unit) := by
  intro h
  cases h with
  | variant entry reach =>
    have : Config.exampleTable.get? (10 : Byte).toNat = some ("ReportSupportedDTC", .unit) := by decide
    cases this.symm.trans entry
    cases reach

/-- A sink with exactly the room the message takes. -/
theorem witness_EncodeAppendsTheFormat :
    (withParams { Config.defaults with snkCap := some 2 } (commandState .encode (.readDtcReq (.variant 10 .unit)))).cmd =
        some .encode ∧
      (commandState .encode (.readDtcReq (.variant 10 .unit))).msg = some (.readDtcReq (.variant 10 .unit)) ∧
      wellFormed { Config.defaults with snkCap := some 2 } (.readDtcReq (.variant 10 .unit)) ∧
      ¬ meetsUnsupported { Config.defaults with snkCap := some 2 } (.readDtcReq (.variant 10 .unit)) ∧
      tablesOk { Config.defaults with snkCap := some 2 } (.readDtcReq (.variant 10 .unit)) ∧
      (wire { Config.defaults with snkCap := some 2 } (.readDtcReq (.variant 10 .unit))).length = 2 ∧
      hasRoom (withParams { Config.defaults with snkCap := some 2 }
        (commandState .encode (.readDtcReq (.variant 10 .unit)))) 2 :=
  ⟨by decide, by decide, ⟨rfl, by decide⟩, reportSupported_clear, show reqTableOk Config.exampleTable = true by decide,
    by decide, by intro cap h; cases h; decide⟩

/-- F22: the width 3, the smallest value that does not fit, and a width no message has. -/
theorem witness_EncodeRejectsIllFormed :
    ∀ x ∈ [(Message.fileTransferReq (fileFields 1 3), ErrKind.unexpectedPayloadType, some 3),
        (.requestDownloadRsp 1 0x100, .encodingError, none), (.requestDownloadRsp 3 0, .unexpectedPayloadType, some 3)],
      (moveState (.encode x.1)).host = .encode x.1 :: [] ∧ (moveState (.encode x.1)).params.snkCap = none ∧
      firstIllFormed (moveState (.encode x.1)).params x.1 = some x.2 := by decide

/-- T13 in both directions: the walk reaches the unsupported shape. -/
theorem witness_EncodeOfUnsupportedShapesFaults :
    (moveState (.encode (.readDtcReq (.variant 5 .placeholder)))).params.snkCap = none ∧
      reqTableOk State.reset.params.dtcReqTable = true ∧ tableOk State.reset.params.dtcRspTable = true ∧
      ReachesUnsupported (.union State.reset.params.dtcReqTable) (.variant 5 .placeholder) ∧
      ReachesUnsupported (.union State.reset.params.dtcRspTable) (.variant 5 .placeholder) :=
  ⟨by decide, by decide, by decide, .variant (name := "Bad") rfl .here, .variant (name := "Bad") rfl .here⟩

/-- A value not of the shape: an index with no entry, and a field of another width. -/
theorem witness_EncodeOfUnsupportedShapesFaults_shape :
    hasShape (.union State.reset.params.dtcReqTable) (.variant 21 .unit) = false ∧
      hasShape (.union State.reset.params.dtcRspTable) (.variant 4 (.u16 1)) = false := by decide

/-- X23: one byte too few, and exactly enough. -/
theorem witness_EncodePastCapacityIsIo :
    (wellFormed Config.defaults (.readDidReq 1) ∧ ¬ meetsUnsupported Config.defaults (.readDidReq 1) ∧
      tablesOk Config.defaults (.readDidReq 1)) ∧
    wire { Config.defaults with snkCap := some 2 } (.readDidReq 1) ≠ [] ∧
    ¬ hasRoom (withParams { Config.defaults with snkCap := some 2 } (moveState (.encode (.readDidReq 1)))) 3 ∧
    hasRoom (withParams { Config.defaults with snkCap := some 3 } (moveState (.encode (.readDidReq 1)))) 3 := by
  refine ⟨⟨⟨rfl, trivial⟩, id, trivial⟩, by decide, fun h => ?_, ?_⟩
  · exact absurd (h 2 rfl) (by decide)
  · intro cap h
    cases h
    decide

/-- D23. -/
theorem witness_FailedEncodeLeavesAPrefix :
    step (moveState (.encode (.requestDownloadRsp 1 0x100))) =
        .next (after (moveState (.encode (.requestDownloadRsp 1 0x100)))) ∧
      (after (moveState (.encode (.requestDownloadRsp 1 0x100)))).status = .fault :=
  ⟨by rfl, by decide⟩

theorem witness_LengthIsTheBytesEncodeAppends :
    (commandState .length (.raw [])).cmd = some .length ∧ (commandState .length (.raw [])).msg = some (.raw []) ∧
      wellFormed Config.defaults (.raw []) ∧ ¬ meetsUnsupported Config.defaults (.raw []) :=
  ⟨by decide, by decide, ⟨rfl, trivial⟩, id⟩

theorem witness_UpgradeKeepsTyped :
    (commandState .upgrade (.readDidReq 1)).cmd = some .upgrade ∧
      (commandState .upgrade (.readDidReq 1)).msg = some (.readDidReq 1) ∧ (Message.readDidReq 1).kind ≠ .raw := by decide

/-- X9 and X10: the nested DECODE succeeds, and faults. -/
theorem witness_UpgradeIsANestedDecode :
    ∀ bytes ∈ ([[0x22, 0xF1, 0x90], [0x22, 0xF1], []] : List Bytes), bytes.length < 2 ^ 32 ∧
      (∃ t, step (moveState (.upgrade (.raw bytes))) = .next t) ∧
      ∃ u, step { moveState (.upgrade (.raw bytes)) with
        src := { bytes := bytes, pos := 0 }, host := [.decode (BitVec.ofNat 32 bytes.length)] } = .next u := by
  intro bytes h
  simp only [List.mem_cons, List.not_mem_nil, or_false] at h
  obtain rfl | rfl | rfl := h
  · exact ⟨by decide, ⟨_, rfl⟩, _, rfl⟩
  · exact ⟨by decide, ⟨_, rfl⟩, _, rfl⟩
  · exact ⟨by decide, ⟨_, rfl⟩, _, rfl⟩

theorem witness_UpgradeIsIdempotent :
    (∃ t, step (moveState (.upgrade (.raw [0x01, 0x02]))) = .next t ∧
      (∀ sid more, ([0x01, 0x02] : Bytes) = sid :: more → sid ∉ mappedSids)) ∧
    ∃ t u, step (moveState (.upgrade (.raw [0x22, 0xF1, 0x90]))) = .next t ∧ t.msg = some (.readDidReq 0xF190) ∧
      step { t with host := [.upgrade (.readDidReq 0xF190)] } = .next u := by
  refine ⟨⟨_, rfl, ?_⟩, _, _, rfl, by decide, rfl⟩
  intro sid more h
  cases h
  decide

theorem witness_EncodeThenDecode :
    (∀ m ∈ [Message.readDtcReq maskThenList, .fileTransferReq { fileFields 2 9 with compression := 3 }, .raw [0x01]],
      firstIllFormed Config.defaults m = none ∧ encodable Config.defaults m = true ∧
        msgLen Config.defaults m < 2 ^ 32) ∧
    wellFormed Config.defaults (.readDtcReq maskThenList) ∧ wellFormed Config.defaults (.raw [0x01]) ∧
    supported Config.defaults = true ∧ Config.defaults.snkCap = none ∧ decodesBack (.readDtcReq maskThenList) ∧
    decodesBack (.raw [0x01]) :=
  ⟨by decide, ⟨rfl, by decide⟩, ⟨rfl, trivial⟩, by decide, by decide, trivial, 0x01, [], rfl, by decide⟩

theorem witness_DecodeThenEncode :
    decodedState.host = .decode 3 :: [] ∧ decodedState.params.snkCap = none ∧
      step decodedState = .next (after decodedState) ∧ (after decodedState).msg = some (.readDidReq 0xF190) ∧
      (∀ descriptor more, remaining decodedState = 0x74 :: descriptor :: more → descriptor.extractLsb' 0 4 = 0) := by
  refine ⟨by decide, by decide, decodedState_step, by decide, fun descriptor more h => ?_⟩
  cases h

/-- D20. -/
theorem witness_LowNibbleIsNotRetained :
    decodeStarts (wireState 3 [0x74, 0x1F, 0x80]) 3 0x74 ∧
      remaining (wireState 3 [0x74, 0x1F, 0x80]) = 0x74 :: nibbles 1 15 :: [0x80] ∧
      (wireState 3 [0x74, 0x1F, 0x80]).params.snkCap = none ∧
      step (wireState 3 [0x74, 0x1F, 0x80]) = .next (after (wireState 3 [0x74, 0x1F, 0x80])) ∧
      (after (wireState 3 [0x74, 0x1F, 0x80])).msg = some (.requestDownloadRsp 1 0x80) :=
  ⟨starts 3 _ _ (by decide), by decide, by decide, by rfl, by decide⟩

/-- Two messages to encode one after the other. -/
def twoMessages : State :=
  { State.reset with host := [.encode (.readDidReq 1), .encode (.negativeResponse 0x22 0x31)] }

theorem witness_ConsecutiveMessages :
    twoMessages.host = .encode (.readDidReq 1) :: .encode (.negativeResponse 0x22 0x31) :: [] ∧ twoMessages.snk = [] ∧
      twoMessages.params.snkCap = none ∧ supported twoMessages.params = true ∧
      step twoMessages = .next (after twoMessages) ∧ step (after twoMessages) = .next (after (after twoMessages)) :=
  ⟨by decide, by decide, by decide, by decide, by rfl, by rfl⟩

theorem twoMessages_wf :
    ∀ x, x = Message.readDidReq 1 ∨ x = .negativeResponse 0x22 0x31 →
      wellFormed twoMessages.params x ∧ encodable twoMessages.params x = true ∧ decodesBack x ∧
        msgLen twoMessages.params x < 2 ^ 32 := by
  intro x h
  obtain rfl | rfl := h
  · exact ⟨⟨rfl, trivial⟩, by decide, trivial, by decide⟩
  · exact ⟨⟨rfl, trivial⟩, by decide, trivial, by decide⟩

/-- A state left by a DECODE that faulted, with the next DECODE to come, meets the invariant. -/
theorem witness_StepKeepsInvariant :
    State.Inv { decodedState with
        cmd := some .decode, status := .fault, err := some (CodecError.record "" (.io .none)) } ∧
      ∃ t, step { decodedState with
        cmd := some .decode, status := .fault, err := some (CodecError.record "" (.io .none)) } = .next t :=
  ⟨{ idle := rfl
     errRecords := by simp
     faulting := fun _ => .inl rfl
     noPartialResult := fun _ => rfl
     hostMessageKept := by intro _ h; simp at h
     decodedWellFormed := by intro h; simp at h
     consumedExactly := by intro h; simp at h
     withinCapacity := by intro cap h; cases h
     hostSinksFit := by intro cap h; cases h
     withinSource := Nat.zero_le _ }, _, rfl⟩

theorem witness_EveryStepCompletes : supported State.reset.params = true := by decide

theorem witness_StepKeepsConfiguration :
    step faultedState = .next (after faultedState) ∧
      (moveState (.loadSink [1])).host = .loadSink [1] :: [] ∧ (moveState (.drainSink 0)).host = .drainSink 0 :: [] ∧
      (moveState (.cutSink 0)).host = .cutSink 0 :: [] ∧
      ∀ move ∈ [HostMove.loadSink [1], .drainSink 0, .cutSink 0], ∃ t, step (moveState move) = .next t := by
  refine ⟨faultedState_step, by decide, by decide, by decide, fun move h => ?_⟩
  simp only [List.mem_cons, List.not_mem_nil, or_false] at h
  obtain rfl | rfl | rfl := h <;> exact ⟨_, rfl⟩

theorem witness_CommandsForgetEarlierResults :
    decodedState.host = .decode 3 :: [] ∧ startsCommand (.decode 3) = true ∧
      ({ decodedState with msg := some (.raw []), status := .fault, l := 7, rpos := 9 } : State).host =
        .decode 3 :: [] ∧
      decodedState.src = ({ decodedState with msg := some (.raw []), status := .fault, l := 7, rpos := 9 } : State).src :=
  ⟨by decide, by decide, by decide, rfl⟩

end Sys2Proof.Tests
end

section
/-! What the writes of ENCODE do to the sink: they only append to it, and within its capacity (R53, R55, R70). -/

namespace Sys2Proof.Machine

/-- The sink is within its capacity, if one is set (R55). -/
def WithinCap (c : Params) (snk : Bytes) : Prop := ∀ cap, c.snkCap = some cap → snk.length ≤ cap

/-- `out` is what appending within the capacity can make of the sink `snk`. -/
structure Grown (c : Params) (snk out : Bytes) : Prop where
  isPrefix : snk <+: out
  withinCap : WithinCap c snk → WithinCap c out

theorem Grown.refl (c : Params) (snk : Bytes) : Grown c snk snk := ⟨List.prefix_rfl, id⟩

theorem Grown.trans {c : Params} {snk mid out : Bytes} (h : Grown c snk mid) (h' : Grown c mid out) :
    Grown c snk out :=
  ⟨h.isPrefix.trans h'.isPrefix, h'.withinCap ∘ h.withinCap⟩

/-- A write the capacity does not refuse grows the sink; an empty one is never refused. -/
theorem grown_append {c : Params} {snk bs : Bytes} (h : overCap c snk bs = false) : Grown c snk (snk ++ bs) := by
  refine ⟨List.prefix_append _ _, fun hsnk cap hcap => ?_⟩
  by_cases hbs : bs = []
  · simpa [hbs] using hsnk cap hcap
  · simpa using (overCap_eq_false_iff c snk bs).mp h hbs cap hcap

/-- However the writes end, they have only grown the sink. -/
def WriteResult.Grows (c : Params) (snk : Bytes) : WriteResult → Prop
  | .ok out => Grown c snk out
  | .fail _ out => Grown c snk out
  | .refuse _ => True

theorem WriteResult.Grows.trans {c : Params} {snk mid : Bytes} {r : WriteResult} (h : Grown c snk mid)
    (hr : r.Grows c mid) : r.Grows c snk := by
  cases r with
  | ok out => exact Grown.trans h hr
  | fail e out => exact Grown.trans h hr
  | refuse reason => trivial

@[simp] theorem grows_ok_self (c : Params) (snk : Bytes) : (WriteResult.ok snk).Grows c snk := Grown.refl c snk
@[simp] theorem grows_fail_self (c : Params) (e : CodecError) (snk : Bytes) : (WriteResult.fail e snk).Grows c snk :=
  Grown.refl c snk

/-! ### One rule for each operation the writes are made of -/

theorem snkWrite_grows {c : Params} {bs snk : Bytes} {k : Bytes → WriteResult} (hk : ∀ mid, (k mid).Grows c mid) :
    (snkWrite c bs snk k).Grows c snk := by
  unfold snkWrite memWrite
  split
  · exact Grown.refl c snk
  · next h => exact (hk _).trans (grown_append (by simpa using h))

theorem writeByte_grows {c : Params} {b : Byte} {snk : Bytes} {k : Bytes → WriteResult}
    (hk : ∀ mid, (k mid).Grows c mid) : (writeByte c b snk k).Grows c snk :=
  snkWrite_grows hk

theorem writeU16_grows {c : Params} {v : Half} {snk : Bytes} {k : Bytes → WriteResult}
    (hk : ∀ mid, (k mid).Grows c mid) : (writeU16 c v snk k).Grows c snk :=
  snkWrite_grows hk

theorem requireWidth_grows {c : Params} {w : Nat} {snk : Bytes} {k : WriteResult} (hk : k.Grows c snk) :
    (requireWidth w snk k).Grows c snk := by
  unfold requireWidth
  split
  · exact hk
  · exact Grown.refl c snk

theorem requireFits_grows {c : Params} {w v : Nat} {snk : Bytes} {k : WriteResult} (hk : k.Grows c snk) :
    (requireFits w v snk k).Grows c snk := by
  unfold requireFits
  split
  · exact Grown.refl c snk
  · exact hk

theorem requireOk_grows {c : Params} {ok : Bool} {snk : Bytes} {k : WriteResult} (hk : k.Grows c snk) :
    (requireOk ok snk k).Grows c snk := by
  unfold requireOk
  split
  · exact hk
  · exact Grown.refl c snk

theorem writeVar_grows {c : Params} {w : Nat} {v : Word} {snk : Bytes} {k : Bytes → WriteResult}
    (hk : ∀ mid, (k mid).Grows c mid) : (writeVar c w v snk k).Grows c snk :=
  requireWidth_grows (requireFits_grows (snkWrite_grows hk))

/-! ### The layouts -/

theorem writeDid_grows (c : Params) (did : Half) (snk : Bytes) : (writeDid c did snk).Grows c snk :=
  writeU16_grows (grows_ok_self c)

theorem writeDidData_grows (c : Params) (did : Half) (data snk : Bytes) : (writeDidData c did data snk).Grows c snk :=
  writeU16_grows fun _ => snkWrite_grows (grows_ok_self c)

theorem writeDtc_grows (c : Params) (table : Entries) (sub : Val) (snk : Bytes) :
    (writeDtc c table sub snk).Grows c snk := by
  unfold writeDtc
  split
  · exact Grown.refl c snk
  · exact snkWrite_grows (grows_ok_self c)

theorem writeDownload_grows (c : Params) (f : Download) (snk : Bytes) : (writeDownload c f snk).Grows c snk :=
  writeByte_grows fun _ => requireWidth_grows <| requireWidth_grows <|
    writeByte_grows fun _ => writeVar_grows fun _ => writeVar_grows (grows_ok_self c)

theorem writeBlockSize_grows (c : Params) (blockBytes : Nibble) (maxBlockSize : Word) (snk : Bytes) :
    (writeBlockSize c blockBytes maxBlockSize snk).Grows c snk :=
  requireWidth_grows <| writeByte_grows fun _ => writeVar_grows (grows_ok_self c)

theorem writeSizes_grows (c : Params) (f : FileTransfer) (snk : Bytes) : (writeSizes c f snk).Grows c snk := by
  unfold writeSizes
  split
  · exact requireWidth_grows <| writeByte_grows fun _ => writeVar_grows fun _ => writeVar_grows (grows_ok_self c)
  · exact Grown.refl c snk

theorem writeMethod_grows (c : Params) (f : FileTransfer) (snk : Bytes) : (writeMethod c f snk).Grows c snk := by
  unfold writeMethod
  split
  · exact writeByte_grows fun _ => writeSizes_grows c f _
  · exact writeSizes_grows c f snk

theorem writeFileTransfer_grows (c : Params) (f : FileTransfer) (snk : Bytes) :
    (writeFileTransfer c f snk).Grows c snk :=
  requireOk_grows <| writeByte_grows fun _ => requireOk_grows <| requireOk_grows <|
    writeU16_grows fun _ => snkWrite_grows fun _ => writeMethod_grows c f _

/-- The payload writes of every message only grow the sink. -/
theorem writePayload_grows (c : Params) (m : Message) (writes : Bytes → WriteResult)
    (h : writePayload c m = some writes) (snk : Bytes) : (writes snk).Grows c snk := by
  cases m <;> obtain rfl := Option.some.inj h
  case readDidReq did => exact writeDid_grows c did snk
  case readDidRsp did data => exact writeDidData_grows c did data snk
  case writeDidReq did data => exact writeDidData_grows c did data snk
  case writeDidRsp did => exact writeDid_grows c did snk
  case readDtcReq sub =>
    split
    · exact writeDtc_grows c _ sub snk
    · trivial
  case readDtcRsp sub =>
    split
    · exact writeDtc_grows c _ sub snk
    · trivial
  case requestDownloadReq f => exact writeDownload_grows c f snk
  case requestDownloadRsp w v => exact writeBlockSize_grows c w v snk
  case fileTransferReq f => exact writeFileTransfer_grows c f snk
  case fileTransferRsp f => exact writeFileTransfer_grows c f snk
  case transferDataReq seq data => exact writeByte_grows fun _ => snkWrite_grows (grows_ok_self c)
  case transferDataRsp seq => exact writeByte_grows (grows_ok_self c)
  case transferExitReq data => exact snkWrite_grows (grows_ok_self c)
  case transferExitRsp data => exact snkWrite_grows (grows_ok_self c)
  case negativeResponse faultedSid code => exact writeByte_grows fun _ => writeByte_grows (grows_ok_self c)
  case raw bytes => exact snkWrite_grows (grows_ok_self c)

/-- However ENCODE ends, its writes have only grown the sink. -/
theorem encodeMessage_grows (c : Params) (m : Message) (snk : Bytes) : (encodeMessage c m snk).Grows c snk := by
  unfold encodeMessage
  split
  · exact Grown.refl c snk
  · next writes hw =>
    unfold writeFrame
    split
    · exact writePayload_grows c m writes hw snk
    · exact snkWrite_grows (writePayload_grows c m writes hw)

end Sys2Proof.Machine
end

section
/-! What the payload decoders answer when they succeed: a well-formed message, from exactly the declared number of bytes
(R25, R176). -/

namespace Sys2Proof.Machine

/-! ### The instruction of a SID and the bytes after it -/

/-- The SID a typed kind is selected by is that kind's own (R110). -/
theorem sidOf_kindOfSid : ∀ sid : Byte, kindOfSid sid = .raw ∨ sidOf (kindOfSid sid) = some sid := by decide

/-- A mapped SID never selects Raw (R82, R83). -/
theorem unmapped_of_kindOfSid_raw : ∀ sid : Byte, kindOfSid sid = .raw → sid ∉ mappedSids := by decide

theorem refineDtcReq_payload (payload : Bytes) : (refineDtcReq payload).payload = payload := by
  unfold refineDtcReq
  split
  · rfl
  · split
    · next h => simp [Instr.payload, h]
    · rfl

theorem refineFileTransferReq_payload (payload : Bytes) : (refineFileTransferReq payload).payload = payload := by
  unfold refineFileTransferReq
  split
  · rfl
  · split_ifs <;> simp_all [Instr.payload]

theorem refineFileTransferRsp_payload (payload : Bytes) : (refineFileTransferRsp payload).payload = payload := by
  unfold refineFileTransferRsp
  split
  · rfl
  · split_ifs <;> simp_all [Instr.payload]

theorem refineDtcReq_kind (payload : Bytes) : (refineDtcReq payload).kind = .readDtcReq := by
  unfold refineDtcReq
  split
  · rfl
  · split_ifs <;> rfl

theorem refineFileTransferReq_kind (payload : Bytes) : (refineFileTransferReq payload).kind = .fileTransferReq := by
  unfold refineFileTransferReq
  split
  · rfl
  · split_ifs <;> rfl

theorem refineFileTransferRsp_kind (payload : Bytes) : (refineFileTransferRsp payload).kind = .fileTransferRsp := by
  unfold refineFileTransferRsp
  split
  · rfl
  · split_ifs <;> rfl

/-- The instruction keeps the bytes after the SID as they are (R80). -/
@[simp] theorem instrOf_payload (sid : Byte) (payload : Bytes) : (instrOf sid payload).payload = payload := by
  unfold instrOf
  split
  case h_5 => exact refineDtcReq_payload payload
  case h_9 => exact refineFileTransferReq_payload payload
  case h_10 => exact refineFileTransferRsp_payload payload
  all_goals rfl

/-- The instruction is of the kind its SID selects (R175). -/
@[simp] theorem instrOf_kind (sid : Byte) (payload : Bytes) : (instrOf sid payload).kind = kindOfSid sid := by
  unfold instrOf
  split <;> simp only [refineDtcReq_kind, refineFileTransferReq_kind, refineFileTransferRsp_kind, *] <;> rfl

/-- The SID of a typed instruction is that of its kind. -/
theorem sid_of_kind (i : Instr) (h : i.kind ≠ .raw) : sidOf i.kind = some i.sid := by
  cases i with
  | raw sid payload => exact absurd rfl h
  | _ => rfl

/-- A Raw row has the SID it is made from. -/
theorem instrOf_of_raw (sid : Byte) (payload : Bytes) (h : kindOfSid sid = .raw) :
    instrOf sid payload = .raw sid payload := by
  simp [instrOf, h]

/-- The instruction keeps its SID (R80, R110). -/
@[simp] theorem instrOf_sid (sid : Byte) (payload : Bytes) : (instrOf sid payload).sid = sid := by
  by_cases h : kindOfSid sid = .raw
  · rw [instrOf_of_raw sid payload h]; rfl
  · have own := sid_of_kind (instrOf sid payload) (by simpa using h)
    rw [instrOf_kind] at own
    exact Option.some.inj (own.symm.trans ((sidOf_kindOfSid sid).resolve_left h))

/-! ### Integers -/

/-- Appending a byte to a big-endian string (R151). -/
theorem be_concat (bs : Bytes) (b : Byte) : be (bs ++ [b]) = be bs * 256 + b.toNat := by
  simp [be]

/-- A big-endian integer is below the bound of its number of bytes (R151). -/
theorem be_lt (bs : Bytes) : be bs < 256 ^ bs.length := by
  induction bs using List.reverseRecOn with
  | nil => simp [be]
  | append_singleton bs b ih =>
    have hb : b.toNat < 256 := b.isLt
    rw [be_concat, List.length_append, List.length_singleton, Nat.pow_succ]
    omega

/-- What a variable-width read gives fits the width it was read at (R155). -/
theorem fits_be_take (w : Nat) (bs : Bytes) (hw : legalWidth w = true) (hb : w ≤ bs.length) :
    fits w (BitVec.ofNat 32 (be (bs.take w))) = true := by
  have hlt : be (bs.take w) < 256 ^ w := by simpa [hb] using be_lt (bs.take w)
  have hmod : be (bs.take w) % 2 ^ 32 ≤ be (bs.take w) := Nat.mod_le _ _
  simp [fits, hw]
  omega

/-! ### The engine -/

/-- A test that holds of every element that is decoded holds of the whole sequence (R127). -/
theorem decodeSeq_allVals (element : Bytes → Except EngineFail (Val × Bytes)) (p : Val → Bool)
    (hp : ∀ buf v rest, element buf = .ok (v, rest) → p v = true) :
    ∀ fuel buf vs rest, decodeSeq element fuel buf = .ok (vs, rest) → allVals p vs = true := by
  intro fuel
  induction fuel with
  | zero =>
    intro buf vs rest h
    simp only [decodeSeq, Except.ok.injEq, Prod.mk.injEq] at h
    simp [← h.1, allVals]
  | succ fuel ih =>
    intro buf vs rest h
    obtain ⟨-, rfl, -⟩ | ⟨v, mid, ws, hv, hws, rfl⟩ := (decodeSeq_succ_ok_iff element fuel buf vs rest).mp h
    · rfl
    · simp [allVals, hp buf v mid hv, ih mid ws rest hws]

/-- What a shape decodes to is a value of the shape; the same for the fields of a record and for every variant. -/
theorem decodeShape_hasShape (shape : Shape) :
    ∀ buf v rest, decodeShape shape buf = .ok (v, rest) → hasShape shape v = true := by
  induction shape using Shape.rec
    (motive_2 := fun entries =>
      (∀ buf vs rest, decodeFields entries buf = .ok (vs, rest) → fieldsHaveShape entries vs = true) ∧
      (∀ i buf v rest, decodeVariant entries i buf = .ok (v, rest) → variantHasShape entries i v = true)) with
  | u8 | u16 | u32 =>
    intro buf v rest h
    obtain ⟨-, rfl, -⟩ := (decodeInt_ok_iff _ _ buf v rest).mp h
    rfl
  | unit =>
    intro buf v rest h
    simp only [decodeShape, Except.ok.injEq, Prod.mk.injEq] at h
    simp [← h.1, hasShape]
  | record fields ih =>
    intro buf v rest h
    simp only [decodeShape] at h
    split at h
    · cases h
    · next vs rest' hvs =>
      cases h
      exact ih.1 buf vs rest hvs
  | union variants ih =>
    intro buf v rest h
    obtain ⟨index, more, w, -, hw, rfl⟩ := (decodeShape_union_ok_iff variants buf v rest).mp h
    exact ih.2 index.toNat more w rest hw
  | seq element ih =>
    intro buf v rest h
    simp only [decodeShape] at h
    split at h
    · cases h
    · next vs rest' hvs =>
      cases h
      exact decodeSeq_allVals _ _ ih _ buf vs rest hvs
  | unsupported what => intro buf v rest h; cases h
  | nil =>
    refine ⟨fun buf vs rest h => ?_, fun i buf v rest h => by cases h⟩
    simp only [decodeFields, Except.ok.injEq, Prod.mk.injEq] at h
    simp [← h.1, fieldsHaveShape]
  | cons name shape rest ihShape ihRest =>
    refine ⟨fun buf vs rest' h => ?_, fun i buf v rest' h => ?_⟩
    · obtain ⟨v, mid, ws, hv, hws, rfl⟩ := (decodeFields_cons_ok_iff name shape rest buf vs rest').mp h
      simp [fieldsHaveShape, ihShape buf v mid hv, ihRest.1 mid ws rest' hws]
    · cases i with
      | zero => exact ihShape buf v rest' h
      | succ i => exact ihRest.2 i buf v rest' h

/-- The engine decodes to values of the shape only (R121). -/
theorem engineDecode_hasShape (shape : Shape) (buf : Bytes) (v : Val) (used : Nat)
    (h : engineDecode shape buf 0 = .ok (v, used)) : hasShape shape v = true := by
  obtain ⟨rest, hv, -⟩ := (engineDecode_zero_ok_iff shape buf v used).mp h
  exact decodeShape_hasShape shape buf v rest hv

/-! ### The layouts -/

theorem decodeDid_ok {make : Half → Message} {l : Nat} {payload rest : Bytes} {m : Message}
    (h : decodeDid make l payload = .ok m rest) : payload.length = l + rest.length ∧ ∃ did, m = make did := by
  simp only [decodeDid, checkExact_ok_iff, readU16_ok_iff, ReadResult.ok.injEq] at h
  obtain ⟨rfl, hlen, rfl, rfl⟩ := h
  exact ⟨by simp; omega, _, rfl⟩

theorem decodeDidData_ok {make : Half → Bytes → Message} {c : Params} {l : Nat} {payload rest : Bytes} {m : Message}
    (h : decodeDidData make c l payload = .ok m rest) :
    payload.length = l + rest.length ∧ ∃ did data, m = make did data := by
  simp only [decodeDidData, checkMin_ok_iff, readU16_ok_iff, readTrailing_ok_iff, ReadResult.ok.injEq] at h
  obtain ⟨hl, hlen, -, htail, rfl, rfl⟩ := h
  simp only [List.length_drop] at htail ⊢
  exact ⟨by omega, _, _, rfl⟩

theorem decodeTransferExit_ok {make : Bytes → Message} {c : Params} {l : Nat} {payload rest : Bytes} {m : Message}
    (h : decodeTransferExit make c l payload = .ok m rest) :
    payload.length = l + rest.length ∧ ∃ data, m = make data := by
  simp only [decodeTransferExit, checkMin_zero, readTrailing_ok_iff, ReadResult.ok.injEq] at h
  obtain ⟨-, hlen, rfl, rfl⟩ := h
  exact ⟨by simp; omega, _, rfl⟩

theorem decodeRaw_ok {sid : Byte} {c : Params} {l : Nat} {payload rest : Bytes} {m : Message}
    (h : decodeRaw sid c l payload = .ok m rest) :
    payload.length = l + rest.length ∧ m = .raw (sid :: payload.take l) := by
  simp only [decodeRaw, readTrailing_ok_iff, ReadResult.ok.injEq] at h
  obtain ⟨-, hlen, rfl, rfl⟩ := h
  exact ⟨by simp; omega, rfl⟩

theorem decodeTransferDataReq_ok {c : Params} {l : Nat} {payload rest : Bytes} {m : Message}
    (h : decodeTransferDataReq c l payload = .ok m rest) :
    payload.length = l + rest.length ∧ ∃ seq data, m = .transferDataReq seq data := by
  simp only [decodeTransferDataReq, checkMin_ok_iff, readByte_ok_iff, readTrailing_ok_iff, ReadResult.ok.injEq] at h
  obtain ⟨hl, seq, more, rfl, -, hlen, rfl, rfl⟩ := h
  exact ⟨by simp; omega, _, _, rfl⟩

theorem decodeTransferDataRsp_ok {c : Params} {l : Nat} {payload rest : Bytes} {m : Message}
    (h : decodeTransferDataRsp c l payload = .ok m rest) :
    payload.length = l + rest.length ∧ ∃ seq, m = .transferDataRsp seq := by
  simp only [decodeTransferDataRsp, checkExact_ok_iff, readByte_ok_iff, ReadResult.ok.injEq] at h
  obtain ⟨rfl, seq, more, rfl, rfl, rfl⟩ := h
  exact ⟨by simp; omega, _, rfl⟩

theorem decodeNegativeResponse_ok {c : Params} {l : Nat} {payload rest : Bytes} {m : Message}
    (h : decodeNegativeResponse c l payload = .ok m rest) :
    payload.length = l + rest.length ∧ ∃ faultedSid code, m = .negativeResponse faultedSid code := by
  simp only [decodeNegativeResponse, checkExact_ok_iff, readByte_ok_iff, ReadResult.ok.injEq] at h
  obtain ⟨rfl, faultedSid, more, rfl, code, more', rfl, rfl, rfl⟩ := h
  exact ⟨by simp; omega, _, _, rfl⟩

theorem decodeRequestDownloadReq_ok {c : Params} {l : Nat} {payload rest : Bytes} {m : Message}
    (h : decodeRequestDownloadReq c l payload = .ok m rest) :
    payload.length = l + rest.length ∧
      ∃ f, m = .requestDownloadReq f ∧
        fits f.addrBytes.toNat f.address = true ∧ fits f.sizeBytes.toNat f.size = true := by
  simp only [decodeRequestDownloadReq, checkMin_ok_iff, readByte_ok_iff, checkWidth_ok_iff, checkExact_ok_iff,
    readVar_ok_iff, ReadResult.ok.injEq] at h
  obtain ⟨-, methodByte, _, rfl, descriptor, more, rfl, hwa, hws, rfl, -, ha, -, hs, rfl, rfl⟩ := h
  refine ⟨?_, _, rfl, fits_be_take _ _ hwa ha, fits_be_take _ _ hws hs⟩
  simp only [List.length_cons, List.length_drop] at hs ⊢
  omega

theorem lowNibbleRule_ok_iff {α : Type} (c : Params) (low : Nibble) (bs : Bytes) (k : ReadResult α) (v : α)
    (rest : Bytes) :
    lowNibbleRule c low bs k = .ok v rest ↔ (c.rdRspLowNibble = .reject → low = 0) ∧ k = .ok v rest := by
  unfold lowNibbleRule
  split <;> simp_all

theorem decodeRequestDownloadRsp_ok {c : Params} {l : Nat} {payload rest : Bytes} {m : Message}
    (h : decodeRequestDownloadRsp c l payload = .ok m rest) :
    payload.length = l + rest.length ∧ ∃ w v, m = .requestDownloadRsp w v ∧ fits w.toNat v = true := by
  simp only [decodeRequestDownloadRsp, checkMin_ok_iff, readByte_ok_iff, lowNibbleRule_ok_iff, checkWidth_ok_iff,
    checkExact_ok_iff, readVar_ok_iff, ReadResult.ok.injEq] at h
  obtain ⟨-, descriptor, more, rfl, -, hw, rfl, -, hv, rfl, rfl⟩ := h
  refine ⟨?_, _, _, rfl, fits_be_take _ _ hw hv⟩
  simp only [List.length_cons, List.length_drop]
  omega

theorem decodeDtc_ok {table : Entries} {make : Val → Message} {l : Nat} {payload rest : Bytes} {m : Message}
    (h : decodeDtc table make l payload = .ok m rest) :
    payload.length = l + rest.length ∧ ∃ v, m = make v ∧ hasShape (.union table) v = true := by
  obtain ⟨hlen, h⟩ := (srcRead_ok_iff l payload _ m rest).mp h
  split at h
  · cases h
  · cases h
  · next v used hv =>
    split at h
    · cases h
    · cases h
      exact ⟨by simp; omega, v, rfl, engineDecode_hasShape _ _ v used hv⟩

/-! #### RequestFileTransfer -/

theorem checkMode_ok_iff {α : Type} (mode : Byte) (bs : Bytes) (k : ReadResult α) (v : α) (rest : Bytes) :
    checkMode mode bs k = .ok v rest ↔ legalMode mode = true ∧ k = .ok v rest := by
  unfold checkMode
  split <;> simp_all

theorem checkUtf8_ok_iff {α : Type} (path bs : Bytes) (k : ReadResult α) (v : α) (rest : Bytes) :
    checkUtf8 path bs k = .ok v rest ↔ validUtf8 path = true ∧ k = .ok v rest := by
  unfold checkUtf8
  split <;> simp_all

/-- The length check after the path length goes on with the exact length, or with enough where a size group follows. -/
theorem checkFixedPart_ok_iff {α : Type} (c : Params) (mode : Byte) (l n : Nat) (bs : Bytes) (k : ReadResult α) (v : α)
    (rest : Bytes) :
    checkFixedPart c mode l n bs k = .ok v rest ↔
      (if hasSize c mode then n ≤ l else l = n) ∧ k = .ok v rest := by
  unfold checkFixedPart
  split <;> simp [checkMin_ok_iff, checkExact_ok_iff]

/-- The method byte is read only from a byte that is there, where the mode carries it. -/
theorem readMethod_ok {c : Params} {f : FileTransfer} {bs rest : Bytes}
    {k : FileTransfer → Bytes → ReadResult Message} {m : Message} (h : readMethod c f bs k = .ok m rest) :
    ∃ compression encryption more,
      bs.length = (if hasMethod c f.mode then 1 else 0) + more.length ∧
      k { f with compression := compression, encryption := encryption } more = .ok m rest := by
  unfold readMethod at h
  split at h
  · next hm =>
    obtain ⟨b, more, rfl, hk⟩ := (readByte_ok_iff _ _ _ _).mp h
    exact ⟨_, _, more, by simp [hm, Nat.add_comm], hk⟩
  · next hm => exact ⟨_, _, bs, by simp [hm], h⟩

/-- The size group is read, where the mode carries it, at a legal width and with the exact length. -/
theorem readSizes_ok {c : Params} {l n : Nat} {f : FileTransfer} {bs rest : Bytes}
    {k : FileTransfer → Bytes → ReadResult Message} {m : Message} (h : readSizes c l n f bs k = .ok m rest) :
    (hasSize c f.mode = false ∧ k f bs = .ok m rest) ∨
    (hasSize c f.mode = true ∧ ∃ w sizeUncompressed sizeCompressed more,
      l = n + 2 * w.toNat ∧ bs.length = 1 + 2 * w.toNat + more.length ∧
      fits w.toNat sizeUncompressed = true ∧ fits w.toNat sizeCompressed = true ∧
      k { f with fsizeBytes := w, sizeUncompressed := sizeUncompressed, sizeCompressed := sizeCompressed } more =
        .ok m rest) := by
  unfold readSizes at h
  split at h
  · next hs =>
    simp only [readByte_ok_iff, checkWidth_ok_iff, checkExact_ok_iff, readVar_ok_iff] at h
    obtain ⟨w, more, rfl, hw, hl, -, hu, -, hc, hk⟩ := h
    refine .inr ⟨hs, w, _, _, _, hl, ?_, fits_be_take _ _ hw hu, fits_be_take _ _ hw hc, hk⟩
    simp only [List.length_cons, List.length_drop] at hc ⊢
    omega
  · next hs => exact .inl ⟨by simpa using hs, h⟩

theorem decodeFileTransfer_ok {make : FileTransfer → Message} {c : Params} {l : Nat} {payload rest : Bytes}
    {m : Message} (h : decodeFileTransfer make c l payload = .ok m rest) :
    payload.length = l + rest.length ∧ ∃ f, m = make f ∧ wfFileTransfer c f = true := by
  simp only [decodeFileTransfer, checkMin_ok_iff, readByte_ok_iff, checkMode_ok_iff, readU16_ok_iff,
    checkFixedPart_ok_iff, srcRead_ok_iff, checkUtf8_ok_iff] at h
  obtain ⟨-, mode, afterMode, rfl, hmode, htwo, hfixed, hpath, hutf8, h⟩ := h
  generalize hn : (BitVec.ofNat 16 (be (afterMode.take 2))).toNat = pathLength at *
  have hshort : pathLength < 65536 := hn ▸ BitVec.isLt _
  obtain ⟨compression, encryption, afterMethod, hmethod, h⟩ := readMethod_ok h
  simp only [List.length_drop] at hpath hmethod
  obtain ⟨hs, h⟩ | ⟨hs, w, sizeUncompressed, sizeCompressed, more, hl, hsizes, hu, hc, h⟩ := readSizes_ok h
  · cases h
    replace hs : hasSize c mode = false := hs
    simp only [hs, Bool.false_eq_true, if_false, fixedPart] at hfixed
    exact ⟨by simp only [List.length_cons]; omega, _, rfl, by simp [wfFileTransfer, hmode, hutf8, hs]; omega⟩
  · cases h
    replace hs : hasSize c mode = true := hs
    simp only [fixedPart, hs, if_true] at hl
    exact ⟨by simp only [List.length_cons]; omega, _, rfl, by simp [wfFileTransfer, hmode, hutf8, hs, hu, hc]; omega⟩

/-! ### Every row -/

/-- A payload decoder that succeeds has read exactly the declared number of bytes, into a well-formed message of the
row's kind; a Raw holds its SID and those bytes. -/
theorem decodePayload_ok {c : Params} {l : Nat} {i : Instr} {m : Message} {rest : Bytes}
    (h : decodePayload c l i = .ok m rest) :
    i.payload.length = l + rest.length ∧ wfMessage c m = true ∧ m.kind = i.kind ∧
      (i.kind = .raw → m = .raw (i.sid :: i.payload.take l)) := by
  cases i with
  | readDidReq payload | writeDidRsp payload =>
    obtain ⟨hlen, did, rfl⟩ := decodeDid_ok h
    exact ⟨hlen, rfl, rfl, nofun⟩
  | readDidRsp payload | writeDidReq payload =>
    obtain ⟨hlen, did, data, rfl⟩ := decodeDidData_ok h
    exact ⟨hlen, rfl, rfl, nofun⟩
  | readDtcReq payload | readDtcReqReportSupported payload | readDtcRsp payload =>
    simp only [decodePayload, decodeReadDtcReq, decodeReadDtcRsp] at h
    split at h
    · obtain ⟨hlen, v, rfl, hv⟩ := decodeDtc_ok h
      exact ⟨hlen, hv, rfl, nofun⟩
    · cases h
  | requestDownloadReq payload =>
    obtain ⟨hlen, f, rfl, ha, hs⟩ := decodeRequestDownloadReq_ok (c := c) h
    exact ⟨hlen, by simp [wfMessage, ha, hs], rfl, nofun⟩
  | requestDownloadRsp payload =>
    obtain ⟨hlen, w, v, rfl, hv⟩ := decodeRequestDownloadRsp_ok h
    exact ⟨hlen, hv, rfl, nofun⟩
  | fileTransferReq payload | fileTransferReqAdd payload | fileTransferReqDelete payload
  | fileTransferReqReplace payload | fileTransferReqReadFile payload | fileTransferReqReadDir payload
  | fileTransferRsp payload | fileTransferRspAdd payload | fileTransferRspDelete payload
  | fileTransferRspReplace payload | fileTransferRspReadFile payload | fileTransferRspReadDir payload =>
    obtain ⟨hlen, f, rfl, hf⟩ := decodeFileTransfer_ok h
    exact ⟨hlen, hf, rfl, nofun⟩
  | transferDataReq payload =>
    obtain ⟨hlen, seq, data, rfl⟩ := decodeTransferDataReq_ok h
    exact ⟨hlen, rfl, rfl, nofun⟩
  | transferDataRsp payload =>
    obtain ⟨hlen, seq, rfl⟩ := decodeTransferDataRsp_ok (c := c) h
    exact ⟨hlen, rfl, rfl, nofun⟩
  | transferExitReq payload | transferExitRsp payload =>
    obtain ⟨hlen, data, rfl⟩ := decodeTransferExit_ok h
    exact ⟨hlen, rfl, rfl, nofun⟩
  | negativeResponse payload =>
    obtain ⟨hlen, faultedSid, code, rfl⟩ := decodeNegativeResponse_ok (c := c) h
    exact ⟨hlen, rfl, rfl, nofun⟩
  | raw sid payload =>
    obtain ⟨hlen, rfl⟩ := decodeRaw_ok h
    exact ⟨hlen, rfl, rfl, fun _ => rfl⟩

/-- What the instruction of a byte string decodes to is a message DECODE may return (R25, R183 (2)). -/
theorem decodePayload_instrOf_decodable {c : Params} {l : Nat} {sid : Byte} {payload rest : Bytes} {m : Message}
    (h : decodePayload c l (instrOf sid payload) = .ok m rest) : decodable c m = true := by
  obtain ⟨-, hwf, hkind, hraw⟩ := decodePayload_ok h
  rw [instrOf_kind] at hkind hraw
  cases m with
  | raw bytes =>
    have hsid := unmapped_of_kindOfSid_raw sid hkind.symm
    obtain rfl : bytes = _ := Message.raw.inj (hraw hkind.symm)
    simp [decodable, wfMessage, hsid]
  | _ => simpa [decodable] using hwf

end Sys2Proof.Machine
end

section
/-! What one step can be, command by command, and what it leaves of the state. -/

namespace Sys2Proof.Machine

/-! ### DECODE: the three ways it can go (R172) -/

/-- The bytes a DECODE that has begun can be given. -/
theorem window_beginDecode (plen : Len) (rest : List HostMove) (s : State) :
    (beginDecode plen (popMove rest s)).window = s.src.remaining.take plen.toNat := rfl

section
variable {s : State} {plen : Len} {rest : List HostMove} (h : s.host = .decode plen :: rest)
include h

/-- `PLEN = 0` faults before any read. -/
theorem step_decode_zero (hz : plen = 0) :
    step s = .next (failDecode (.payloadLengthTooShort 0 1) 0 (beginDecode plen (popMove rest s))) :=
  step_of_finished s _ _ rest h (by simp [enterMove, enterDecode, hz])

/-- With no byte left the SID is absent. -/
theorem step_decode_empty (hp : plen ≠ 0) (hw : s.src.remaining.take plen.toNat = []) :
    step s = .next (shortDecode 0 (beginDecode plen (popMove rest s))) :=
  step_of_finished s _ _ rest h (enterDecode_empty plen _ hp hw)

/-- With a SID byte the instruction of the bytes within PLEN runs after the phases. -/
theorem step_decode_exec {sid : Byte} {more : Bytes} (hp : plen ≠ 0)
    (hw : s.src.remaining.take plen.toNat = sid :: more) :
    step s = exec (instrOf sid more) (dispatchPhases sid (beginDecode plen (popMove rest s))) := by
  simpa using step_of_run s _ _ rest _ h (enterDecode_cons plen _ sid more hp hw)

/-- The instruction ends as its payload decoder does; before that it changes at most BUF (R41). -/
theorem step_decode_run {sid : Byte} {more : Bytes} (hp : plen ≠ 0)
    (hw : s.src.remaining.take plen.toNat = sid :: more) :
    ∃ buf, step s = endDecode (decodePayload s.params (plen - 1).toNat (instrOf sid more)) more
      { dispatchPhases sid (beginDecode plen (popMove rest s)) with buf := buf } := by
  have hexec := (step_decode_exec h hp hw).trans (exec_decode _ _ rfl)
  rw [instrOf_payload] at hexec
  split at hexec
  · obtain ⟨buf, hbuf⟩ := stageDtc_eq more (dispatchPhases sid (beginDecode plen (popMove rest s)))
    exact ⟨buf, hexec.trans (by rw [hbuf]; rfl)⟩
  · exact ⟨_, hexec⟩

end

/-! ### What a command leaves unchanged -/

/-- The end of a DECODE keeps the parameters, the source's bytes, the sink and the host's list. -/
theorem endDecode_frame {r : ReadResult Message} {payload : Bytes} {s t : State}
    (h : endDecode r payload s = .next t) :
    t.params = s.params ∧ t.src.bytes = s.src.bytes ∧ t.snk = s.snk ∧ t.host = s.host := by
  obtain ⟨_, _, -, rfl⟩ | ⟨_, -, rfl⟩ | ⟨_, _, -, rfl⟩ := (endDecode_next_iff r payload s t).mp h <;> simp

/-- So does a DECODE. -/
theorem step_decode_frame {s t : State} {plen : Len} {rest : List HostMove} (h : s.host = .decode plen :: rest)
    (ht : step s = .next t) :
    t.params = s.params ∧ t.src.bytes = s.src.bytes ∧ t.snk = s.snk ∧ t.host = rest := by
  by_cases hz : plen = 0
  · cases (step_decode_zero h hz).symm.trans ht
    simp
  · cases hw : s.src.remaining.take plen.toNat with
    | nil =>
      cases (step_decode_empty h hz hw).symm.trans ht
      simp
    | cons sid more =>
      obtain ⟨buf, hrun⟩ := step_decode_run h hz hw
      simpa using endDecode_frame (hrun.symm.trans ht)

/-- UPGRADE returns some message with STATUS OK and changes nothing else (R182). -/
theorem upgradeRaw_next {m : Message} {s t : State} (h : upgradeRaw m s = .next t) : ∃ m', t = finishUpgrade m' s := by
  cases m with
  | raw bytes =>
    simp only [upgradeRaw] at h
    split at h <;> cases h <;> exact ⟨_, rfl⟩
  | _ => cases h; exact ⟨_, rfl⟩

/-- UPGRADE of a typed message returns it (R182). -/
theorem upgradeRaw_typed {m : Message} (h : m.kind ≠ .raw) (s : State) :
    upgradeRaw m s = .next (finishUpgrade m s) := by
  cases m with
  | raw bytes => exact absurd rfl h
  | _ => rfl

/-- Everything the end of ENCODE, UPGRADE or LENGTH can be. -/
theorem messageCommand_next {cmd : Cmd} {m : Message} {s t : State} (hd : cmd ≠ .decode)
    (h : messageCommand cmd m s = .next t) :
    (cmd = .encode ∧ ∃ snk, encodeMessage s.params m s.snk = .ok snk ∧ t = finishEncode snk s) ∨
    (cmd = .encode ∧ ∃ e written, encodeMessage s.params m s.snk = .fail e written ∧ t = failEncode e written s) ∨
    (cmd = .upgrade ∧ ∃ m', t = finishUpgrade m' s) ∨
    (cmd = .length ∧ ∃ n, t = finishLength n s) := by
  cases cmd with
  | decode => exact absurd rfl hd
  | encode =>
    obtain hok | hfail := (endEncode_next_iff _ s t).mp h
    · exact .inl ⟨rfl, hok⟩
    · exact .inr (.inl ⟨rfl, hfail⟩)
  | upgrade => exact .inr (.inr (.inl ⟨rfl, upgradeRaw_next h⟩))
  | length => cases h; exact .inr (.inr (.inr ⟨rfl, _, rfl⟩))

/-- What a failed ENCODE leaves of its writes is between the sink it began with and what it had written (R70). -/
theorem failEncode_snk_grown {c : Params} {snk written : Bytes} (h : Grown c snk written) (n : Nat) :
    Grown c snk (snk ++ (written.drop snk.length).take n) := by
  refine ⟨List.prefix_append _ _, fun hcap cap hc => ?_⟩
  have hsnk := hcap cap hc
  have hwritten := h.withinCap hcap cap hc
  simp only [List.length_append, List.length_take, List.length_drop]
  omega

/-- ENCODE, UPGRADE and LENGTH keep the parameters, the source and the host's list, and only grow the sink. -/
theorem messageCommand_frame {cmd : Cmd} {m : Message} {s t : State} (hd : cmd ≠ .decode)
    (h : messageCommand cmd m s = .next t) :
    t.params = s.params ∧ t.src = s.src ∧ t.host = s.host ∧ Grown s.params s.snk t.snk := by
  have hgrows := encodeMessage_grows s.params m s.snk
  obtain ⟨-, snk, hok, rfl⟩ | ⟨-, e, written, hfail, rfl⟩ | ⟨-, m', rfl⟩ | ⟨-, n, rfl⟩ := messageCommand_next hd h
  · rw [hok] at hgrows
    exact ⟨rfl, rfl, rfl, hgrows⟩
  · rw [hfail] at hgrows
    exact ⟨rfl, rfl, rfl, failEncode_snk_grown hgrows _⟩
  · exact ⟨rfl, rfl, rfl, Grown.refl _ _⟩
  · exact ⟨rfl, rfl, rfl, Grown.refl _ _⟩

/-! ### The kinds of step -/

/-- The two streams after a host move that is over without a command (R53, R317); none for a move that starts one. -/
def hostMoveStreams : HostMove → State → Option (Source × Bytes)
  | .loadSource bytes, s => some ({ bytes := bytes, pos := 0 }, s.snk)
  | .seekSource pos, s => some ({ s.src with pos := min pos s.src.bytes.length }, s.snk)
  | .loadSink bytes, s => some (s.src, bytes)
  | .drainSink count, s => some (s.src, s.snk.drop count)
  | .cutSink keep, s => some (s.src, s.snk.take keep)
  | .decode _, _ => none
  | .encode _, _ => none
  | .upgrade _, _ => none
  | .length _, _ => none

/-- A step on such a move. -/
theorem step_hostMove {s : State} {move : HostMove} {rest : List HostMove} {src : Source} {snk : Bytes}
    (h : s.host = move :: rest) (hm : hostMoveStreams move s = some (src, snk)) :
    step s = .next { s with src := src, snk := snk, host := rest } := by
  refine step_of_finished s _ move rest h ?_
  cases move <;> cases hm <;> rfl

/-- Every step is the idle one, one that changes the streams as the host's move says, a DECODE, or one of the three
commands on a message. -/
theorem step_cases {s t : State} (ht : step s = .next t) :
    (s.host = [] ∧ t = s) ∨
    (∃ move rest src snk, s.host = move :: rest ∧ hostMoveStreams move s = some (src, snk) ∧
      t = { s with src := src, snk := snk, host := rest }) ∨
    (∃ plen rest, s.host = .decode plen :: rest) ∨
    (∃ move cmd m rest, s.host = move :: rest ∧ cmd ≠ .decode ∧
      (move = .encode m ∨ move = .upgrade m ∨ move = .length m) ∧
      messageCommand cmd m (beginMessage cmd m (popMove rest s)) = .next t) := by
  cases h : s.host with
  | nil =>
    simp only [step, h, Host.Outcome.next.injEq] at ht
    exact .inl ⟨rfl, ht.symm⟩
  | cons move rest =>
    cases move with
    | decode plen => exact .inr (.inr (.inl ⟨plen, rest, rfl⟩))
    | encode m =>
      exact .inr (.inr (.inr ⟨_, .encode, m, rest, rfl, by decide, .inl rfl, (step_encode s m rest h).symm.trans ht⟩))
    | upgrade m =>
      exact .inr (.inr (.inr ⟨_, .upgrade, m, rest, rfl, by decide, .inr (.inl rfl),
        (step_upgrade s m rest h).symm.trans ht⟩))
    | length m =>
      exact .inr (.inr (.inr ⟨_, .length, m, rest, rfl, by decide, .inr (.inr rfl),
        (step_length s m rest h).symm.trans ht⟩))
    | _ =>
      cases (step_hostMove h rfl).symm.trans ht
      exact .inr (.inl ⟨_, rest, _, _, rfl, rfl, rfl⟩)

end Sys2Proof.Machine
end

section
/-! The invariant between commands is kept by every step: the streams' clauses by the frame of each command, the clauses
on the result by how the command ends. -/

namespace Sys2Proof.Machine

/-- The clauses of the invariant on the two streams. -/
structure State.StreamsFit (s : State) : Prop where
  sink : WithinCap s.params s.snk
  sinksToCome : ∀ bytes, HostMove.loadSink bytes ∈ s.host → WithinCap s.params bytes
  source : s.src.pos ≤ s.src.bytes.length

theorem State.Inv.streamsFit {s : State} (h : s.Inv) : s.StreamsFit :=
  ⟨h.withinCapacity, fun bytes hb cap hc => h.hostSinksFit cap hc bytes hb, h.withinSource⟩

/-- A state in which the streams fit meets the invariant when its command ended well. -/
theorem inv_of_ok {s : State} (hs : s.StreamsFit) (hidle : s.phase = .idle) (hok : s.status = .ok) (herr : s.err = none)
    (hdec : s.cmd = some .decode → (∃ m, s.msg = some m ∧ decodable s.params m = true) ∧ s.rpos = s.plen) : s.Inv where
  idle := hidle
  errRecords := by simp [hok, herr]
  faulting := by simp [hok]
  noPartialResult := by simp [hok]
  hostMessageKept := by simp [hok]
  decodedWellFormed _ hd := (hdec hd).1
  consumedExactly _ hd := (hdec hd).2
  withinCapacity := hs.sink
  hostSinksFit cap hc bytes hb := hs.sinksToCome bytes hb cap hc
  withinSource := hs.source

/-- A state in which the streams fit meets the invariant when a DECODE faulted, or an ENCODE that kept the host's
message. -/
theorem inv_of_fault {s : State} (hs : s.StreamsFit) (hidle : s.phase = .idle) (hfault : s.status = .fault)
    (herr : s.err ≠ none) (hmsg : s.msg = none) (hcmd : s.cmd = some .decode ∨ s.cmd = some .encode ∧ s.arg ≠ none) :
    s.Inv where
  idle := hidle
  errRecords := by simp [hfault, herr]
  faulting _ := hcmd.imp_right And.left
  noPartialResult _ := hmsg
  hostMessageKept _ henc := by
    obtain hd | ⟨-, harg⟩ := hcmd
    · cases hd.symm.trans henc
    · exact harg
  decodedWellFormed := by simp [hfault]
  consumedExactly := by simp [hfault]
  withinCapacity := hs.sink
  hostSinksFit cap hc bytes hb := hs.sinksToCome bytes hb cap hc
  withinSource := hs.source

/-- A change of the streams alone keeps the invariant when they still fit. -/
theorem State.Inv.of_streams {s : State} (h : s.Inv) (src : Source) (snk : Bytes) (host : List HostMove)
    (hs : State.StreamsFit { s with src := src, snk := snk, host := host }) :
    State.Inv { s with src := src, snk := snk, host := host } :=
  { h with
    withinCapacity := hs.sink
    hostSinksFit := fun cap hc bytes hb => hs.sinksToCome bytes hb cap hc
    withinSource := hs.source }

/-- Taking the first move off the list keeps the sinks to come within the capacity. -/
theorem State.StreamsFit.pop {s : State} {move : HostMove} {rest : List HostMove} (hs : s.StreamsFit)
    (h : s.host = move :: rest) : (popMove rest s).StreamsFit :=
  { hs with sinksToCome := fun bytes hb => hs.sinksToCome bytes (h ▸ List.mem_cons_of_mem _ hb) }

/-! ### The host's own moves -/

theorem streamsFit_hostMove {s : State} {move : HostMove} {rest : List HostMove} {src : Source} {snk : Bytes}
    (hs : s.StreamsFit) (h : s.host = move :: rest) (hm : hostMoveStreams move s = some (src, snk)) :
    State.StreamsFit { s with src := src, snk := snk, host := rest } := by
  have hpop := hs.pop h
  cases move <;> cases hm
  case loadSource => exact { hpop with source := Nat.zero_le _ }
  case seekSource => exact { hpop with source := Nat.min_le_right _ _ }
  case loadSink => exact { hpop with sink := hs.sinksToCome _ (h ▸ List.mem_cons_self) }
  case drainSink =>
    exact { hpop with sink := fun cap hc => Nat.le_trans (by simp) (hs.sink cap hc) }
  case cutSink =>
    exact { hpop with sink := fun cap hc => Nat.le_trans (by simp) (hs.sink cap hc) }

/-! ### DECODE -/

/-- The length handed to the payload decoder is PLEN without the SID (R34). -/
theorem len_sub_one {plen : Len} (h : plen ≠ 0) : (plen - 1).toNat + 1 = plen.toNat := by
  have hpos : (1 : Len) ≤ plen := Nat.pos_of_ne_zero fun hz => h (BitVec.eq_of_toNat_eq hz)
  rw [BitVec.toNat_sub_of_le hpos]
  exact Nat.sub_add_cancel hpos

/-- The source of a DECODE stands within its bytes also where the window ends. -/
theorem window_le_source {s : State} (h : s.src.pos ≤ s.src.bytes.length) :
    s.src.pos + s.window.length ≤ s.src.bytes.length := by
  rw [window_length]
  omega

/-- A DECODE fault raised by a check after at most the bytes it was given. -/
theorem inv_failDecode {s : State} (hs : s.StreamsFit) (hcmd : s.cmd = some .decode) (e : CodecError) {read : Nat}
    (hr : read ≤ s.window.length) : (failDecode e read s).Inv :=
  inv_of_fault
    { hs with
      source := (drawBetween_bounds _ _ _ (Nat.add_le_add_left hr _)).2.trans (window_le_source hs.source) }
    rfl rfl nofun rfl (.inl hcmd)

/-- A DECODE fault raised by the end of the source. -/
theorem inv_shortDecode {s : State} (hs : s.StreamsFit) (hcmd : s.cmd = some .decode) (read : Nat) :
    (shortDecode read s).Inv :=
  inv_of_fault { hs with source := Nat.le_refl _ } rfl rfl nofun rfl (.inl hcmd)

/-- A DECODE that succeeds after exactly PLEN bytes, which were there. -/
theorem inv_finishDecode {s : State} (hs : s.StreamsFit) {m : Message} {read : Nat} (hm : decodable s.params m = true)
    (hr : read = s.plen.toNat) (hw : read ≤ s.window.length) : (finishDecode m read s).Inv :=
  inv_of_ok
    { hs with source := Nat.le_trans (Nat.add_le_add_left hw _) (window_le_source hs.source) }
    rfl rfl rfl fun _ => ⟨⟨m, rfl, hm⟩, by simp [hr, toLen]⟩

/-- However the payload decoder of the bytes within PLEN ends. -/
theorem inv_endDecode {s t : State} {sid : Byte} {more : Bytes} (hs : s.StreamsFit) (hcmd : s.cmd = some .decode)
    (hplen : s.plen ≠ 0) (hrpos : s.rpos = 1) (hw : s.window = sid :: more)
    (ht : endDecode (decodePayload s.params (s.plen - 1).toNat (instrOf sid more)) more s = .next t) : t.Inv := by
  have hlen : s.window.length = more.length + 1 := by rw [hw]; rfl
  have hone : s.rpos.toNat = 1 := by rw [hrpos]; rfl
  obtain ⟨m, rest, hr, rfl⟩ | ⟨rest, -, rfl⟩ | ⟨e, rest, -, rfl⟩ := (endDecode_next_iff _ more s t).mp ht
  · obtain ⟨htaken, -⟩ := decodePayload_ok hr
    rw [instrOf_payload] at htaken
    have hl := len_sub_one hplen
    exact inv_finishDecode hs (decodePayload_instrOf_decodable hr) (by omega) (by omega)
  · exact inv_shortDecode hs hcmd _
  · exact inv_failDecode hs hcmd e (by omega)

theorem inv_step_decode {s t : State} {plen : Len} {rest : List HostMove} (hs : s.StreamsFit)
    (h : s.host = .decode plen :: rest) (ht : step s = .next t) : t.Inv := by
  have hbegun : (beginDecode plen (popMove rest s)).StreamsFit := { hs.pop h with }
  by_cases hz : plen = 0
  · cases (step_decode_zero h hz).symm.trans ht
    exact inv_failDecode hbegun rfl _ (Nat.zero_le _)
  · cases hw : s.src.remaining.take plen.toNat with
    | nil =>
      cases (step_decode_empty h hz hw).symm.trans ht
      exact inv_shortDecode hbegun rfl 0
    | cons sid more =>
      obtain ⟨buf, hrun⟩ := step_decode_run h hz hw
      exact inv_endDecode (s := { dispatchPhases sid (beginDecode plen (popMove rest s)) with buf := buf })
        { hbegun with } rfl hz rfl hw (hrun.symm.trans ht)

/-! ### ENCODE, UPGRADE and LENGTH -/

theorem inv_messageCommand {s t : State} {cmd : Cmd} {m : Message} (hs : s.StreamsFit) (hd : cmd ≠ .decode)
    (hcmd : s.cmd = some cmd) (harg : s.arg = some m)
    (ht : messageCommand cmd m s = .next t) : t.Inv := by
  obtain ⟨hparams, hsrc, hhost, hgrown⟩ := messageCommand_frame hd ht
  have hfit : t.StreamsFit :=
    { sink := hparams ▸ hgrown.withinCap hs.sink
      sinksToCome := by rw [hparams, hhost]; exact hs.sinksToCome
      source := by rw [hsrc]; exact hs.source }
  have hnot : s.cmd ≠ some .decode := by simp [hcmd, hd]
  obtain ⟨-, snk, -, rfl⟩ | ⟨rfl, e, written, -, rfl⟩ | ⟨-, m', rfl⟩ | ⟨-, n, rfl⟩ := messageCommand_next hd ht
  · exact inv_of_ok hfit rfl rfl rfl fun hdec => absurd hdec hnot
  · exact inv_of_fault hfit rfl rfl nofun rfl (.inr ⟨hcmd, by simp [harg]⟩)
  · exact inv_of_ok hfit rfl rfl rfl fun hdec => absurd hdec hnot
  · exact inv_of_ok hfit rfl rfl rfl fun hdec => absurd hdec hnot

/-- Settles O57: every step is idle, a change of the streams, a DECODE or a command on a message, and each keeps the
invariant. -/
theorem stepKeepsInvariant : Obligations.StepKeepsInvariant := by
  intro s t hinv ht
  obtain ⟨-, rfl⟩ | ⟨move, rest, src, snk, h, hm, rfl⟩ | ⟨plen, rest, h⟩ | ⟨move, cmd, m, rest, h, hd, -, hmsg⟩ :=
    step_cases ht
  · exact hinv
  · exact hinv.of_streams src snk rest (streamsFit_hostMove hinv.streamsFit h hm)
  · exact inv_step_decode hinv.streamsFit h ht
  · exact inv_messageCommand (s := beginMessage cmd m (popMove rest s)) { hinv.streamsFit.pop h with } hd rfl rfl hmsg

end Sys2Proof.Machine
end

section
/-! What steps keep of the configuration and the streams, what a failed ENCODE leaves, and which instruction a step
runs. -/

namespace Sys2Proof.Machine

open Stated

/-! ### Configuration and streams (R50, R53) -/

/-- A host move between commands loads the source or leaves its bytes, and does to the sink what it says. -/
theorem hostMoveStreams_effect {s : State} {move : HostMove} {src : Source} {snk : Bytes}
    (hm : hostMoveStreams move s = some (src, snk)) :
    (src.bytes = s.src.bytes ∨ move = .loadSource src.bytes) ∧
      (snk = s.snk ∨ touchesSink move = true) ∧
      (∀ bytes, move = .loadSink bytes → snk = bytes) ∧
      (∀ count, move = .drainSink count → snk = s.snk.drop count) ∧
      (∀ keep, move = .cutSink keep → snk = s.snk.take keep) := by
  cases move <;> cases hm <;> simp [touchesSink]

/-- Every other step keeps the parameters and the source's bytes, only grows the sink, and is no move on the sink. -/
theorem step_keeps_streams {s t : State} (ht : step s = .next t) :
    (∃ move rest src snk, s.host = move :: rest ∧ hostMoveStreams move s = some (src, snk) ∧
      t = { s with src := src, snk := snk, host := rest }) ∨
    (t.params = s.params ∧ t.src.bytes = s.src.bytes ∧ s.snk <+: t.snk ∧
      ∀ move rest, s.host = move :: rest → touchesSink move = false) := by
  obtain ⟨h, rfl⟩ | hhost | ⟨plen, rest, h⟩ | ⟨move, cmd, m, rest, h, hd, hmove, hmsg⟩ := step_cases ht
  · exact .inr ⟨rfl, rfl, List.prefix_rfl, by simp [h]⟩
  · exact .inl hhost
  · obtain ⟨hparams, hsrc, hsnk, -⟩ := step_decode_frame h ht
    exact .inr ⟨hparams, hsrc, hsnk ▸ List.prefix_rfl, by simp [h, touchesSink]⟩
  · obtain ⟨hparams, hsrc, -, hgrown⟩ := messageCommand_frame hd hmsg
    refine .inr ⟨hparams, congrArg Source.bytes hsrc, hgrown.isPrefix, ?_⟩
    obtain rfl | rfl | rfl := hmove <;> simp [h, touchesSink]

/-- Settles O59: a move of the host does what it says, and every other step keeps the source and grows the sink. -/
theorem stepKeepsConfiguration : Obligations.StepKeepsConfiguration := by
  intro s t ht
  obtain ⟨move, rest, src, snk, h, hm, rfl⟩ | ⟨hparams, hsrc, hsnk, hmove⟩ := step_keeps_streams ht
  · obtain ⟨hsrc, hsnk, hload, hdrain, hcut⟩ := hostMoveStreams_effect hm
    simp only [h, List.cons.injEq]
    refine ⟨trivial, ?_, ?_, fun bytes _ e => hload bytes e.1, fun count _ e => hdrain count e.1,
      fun keep _ e => hcut keep e.1⟩
    · exact hsrc.imp_right fun e => ⟨_, rest, ⟨e, rfl⟩, rfl⟩
    · obtain rfl | htouch := hsnk
      · exact .inl List.prefix_rfl
      · exact .inr ⟨move, rest, ⟨rfl, rfl⟩, htouch⟩
  · exact ⟨hparams, .inl hsrc, .inl hsnk, fun _ _ h => by simpa [touchesSink] using hmove _ _ h,
      fun _ _ h => by simpa [touchesSink] using hmove _ _ h, fun _ _ h => by simpa [touchesSink] using hmove _ _ h⟩

/-- Settles O46: the writes of ENCODE have only grown the sink, and of what they added a failed ENCODE keeps a part from
its start. -/
theorem failedEncodeLeavesAPrefix : Obligations.FailedEncodeLeavesAPrefix := by
  intro s t m rest h ht hfault
  rw [step_encode s m rest h] at ht
  obtain ⟨snk, -, rfl⟩ | ⟨e, out, hfail, rfl⟩ := (endEncode_next_iff _ _ t).mp ht
  · simp at hfault
  · have hgrows := encodeMessage_grows s.params m s.snk
    simp only [beginMessage_params, popMove_params, beginMessage_snk, popMove_snk] at hfail
    rw [hfail] at hgrows
    obtain ⟨written, rfl⟩ := hgrows.isPrefix
    exact ⟨e, written, written.take (Config.freeCount s.draws), hfail, List.take_prefix _ _, by simp, rfl, rfl, rfl,
      rfl⟩

/-! ### What the host observes of a command (R22, R171) -/

/-- What the end of a DECODE shows depends on the parameters, the streams, PLEN, RPOS, the length register and the free
draws only. -/
theorem observe_endDecode (r : ReadResult Message) (payload : Bytes) {s s' : State} (hplen : s.plen = s'.plen)
    (hrpos : s.rpos = s'.rpos) (hlen : s.lengthOut = s'.lengthOut) (hsrc : s.src = s'.src) (hsnk : s.snk = s'.snk)
    (hdraws : s.draws = s'.draws) : observe (endDecode r payload s) = observe (endDecode r payload s') := by
  cases r <;> simp [observe, endDecode, State.window, hplen, hrpos, hlen, hsrc, hsnk, hdraws]

theorem observe_endEncode (r : WriteResult) {s s' : State} (hmsg : s.msg = s'.msg)
    (hlen : s.lengthOut = s'.lengthOut) (hsrc : s.src = s'.src) (hsnk : s.snk = s'.snk) (hdraws : s.draws = s'.draws) :
    observe (endEncode r s) = observe (endEncode r s') := by
  cases r <;> simp [observe, endEncode, hmsg, hlen, hsrc, hsnk, hdraws]

theorem observe_upgradeRaw (m : Message) {s s' : State} (hparams : s.params = s'.params)
    (hlen : s.lengthOut = s'.lengthOut) (hsrc : s.src = s'.src) (hsnk : s.snk = s'.snk) :
    observe (upgradeRaw m s) = observe (upgradeRaw m s') := by
  cases m with
  | raw bytes =>
    simp only [upgradeRaw, hparams]
    split <;> simp [observe, hlen, hsrc, hsnk]
  | _ => simp [observe, upgradeRaw, hlen, hsrc, hsnk]

/-- What a command on a message shows depends on the message, the parameters, the streams and the free draws only. -/
theorem observe_messageCommand {cmd : Cmd} (m : Message) {s s' : State} (hd : cmd ≠ .decode)
    (hparams : s.params = s'.params) (hmsg : s.msg = s'.msg) (hlen : s.lengthOut = s'.lengthOut) (hsrc : s.src = s'.src)
    (hsnk : s.snk = s'.snk) (hdraws : s.draws = s'.draws) :
    observe (messageCommand cmd m s) = observe (messageCommand cmd m s') := by
  cases cmd with
  | decode => exact absurd rfl hd
  | encode =>
    simp only [messageCommand, hparams, hsnk]
    exact observe_endEncode _ hmsg hlen hsrc hsnk hdraws
  | upgrade => exact observe_upgradeRaw m hparams hlen hsrc hsnk
  | length => simp [messageCommand, observe, hparams, hmsg, hsrc, hsnk]

/-- A DECODE shows the same in two states that agree in the parameters, the streams and the free draws. -/
theorem observe_step_decode {s s' : State} {plen : Len} {rest rest' : List HostMove} (h : s.host = .decode plen :: rest)
    (h' : s'.host = .decode plen :: rest') (hparams : s.params = s'.params) (hsrc : s.src = s'.src)
    (hsnk : s.snk = s'.snk) (hdraws : s.draws = s'.draws) : observe (step s) = observe (step s') := by
  by_cases hz : plen = 0
  · rw [step_decode_zero h hz, step_decode_zero h' hz]
    simp [observe, State.window, hsrc, hsnk, hdraws]
  · cases hw : s.src.remaining.take plen.toNat with
    | nil =>
      rw [step_decode_empty h hz hw, step_decode_empty h' hz (hsrc ▸ hw)]
      simp [observe, hsrc, hsnk, hdraws]
    | cons sid more =>
      obtain ⟨buf, hrun⟩ := step_decode_run h hz hw
      obtain ⟨buf', hrun'⟩ := step_decode_run h' hz (hsrc ▸ hw)
      rw [hrun, hrun', hparams]
      exact observe_endDecode _ _ rfl rfl rfl hsrc hsnk hdraws

/-- Settles O60: every command first writes each register it later reads. -/
theorem commandsForgetEarlierResults : Obligations.CommandsForgetEarlierResults := by
  intro s s' move rest rest' h h' hstart hparams hsrc hsnk hdraws
  cases move with
  | decode plen => exact observe_step_decode h h' hparams hsrc hsnk hdraws
  | encode m =>
    rw [step_encode s m rest h, step_encode s' m rest' h']
    exact observe_messageCommand m (by decide) hparams rfl rfl hsrc hsnk hdraws
  | upgrade m =>
    rw [step_upgrade s m rest h, step_upgrade s' m rest' h']
    exact observe_messageCommand m (by decide) hparams rfl rfl hsrc hsnk hdraws
  | length m =>
    rw [step_length s m rest h, step_length s' m rest' h']
    exact observe_messageCommand m (by decide) hparams rfl rfl hsrc hsnk hdraws
  | loadSource _ | seekSource _ | loadSink _ | drainSink _ | cutSink _ => cases hstart

/-! ### The instruction a step runs (R172 to R175, R178) -/

/-- DIR is bit 6 of the SID (R35). -/
theorem dirOf_eq_bit : ∀ sid : Byte, dirOf sid = if sid.getLsbD 6 then .response else .request := by decide

/-- The phases leave the state the statement writes out field by field. -/
theorem dispatchPhases_beginDecode (plen : Len) (sid : Byte) (rest : List HostMove) (s : State) :
    dispatchPhases sid (beginDecode plen (popMove rest s)) = dispatched plen sid rest s := by
  rw [dispatched, ← dirOf_eq_bit]
  rfl

/-- Settles O24: the bytes within PLEN are a SID and the rest, whose instruction runs in the state the phases leave. -/
theorem stepRunsTheDecodedInstruction : Obligations.StepRunsTheDecodedInstruction := by
  refine ⟨fun s plen rest i h hp hi _ => ?_, fun s m rest => ⟨fun h => ?_, fun h => ?_, fun h => ?_⟩⟩
  · cases hw : (remaining s).take plen.toNat with
    | nil => rw [hw] at hi; cases hi
    | cons sid more =>
      rw [hw] at hi
      cases hi
      rw [step_decode_exec h hp hw, dispatchPhases_beginDecode, instrOf_sid]
  · exact step_of_run s _ _ rest _ h rfl
  · exact step_of_run s _ _ rest _ h rfl
  · exact step_of_run s _ _ rest _ h rfl

/-- Settles O48: the row of a typed message returns it under UPGRADE, and MSG held it already. -/
theorem upgradeKeepsTyped : Obligations.UpgradeKeepsTyped := by
  intro s m hcmd hmsg hk
  rw [exec_message .upgrade m s (by decide) hcmd hmsg]
  refine (upgradeRaw_typed hk s).trans ?_
  rw [finishUpgrade, ← hmsg]

/-- Settles O55: by the definition of the reset state. -/
theorem resetState : Obligations.ResetState := ⟨rfl, rfl, rfl, rfl, rfl⟩

/-! ### Decoding Raw and ReadDTCInformation -/

/-- A DECODE that has read all `n` bytes of a message after which `rest` follows is the state the statements write
out. -/
theorem endDecode_ok_append (m : Message) (bs rest : Bytes) (s : State) :
    endDecode (.ok m rest) (bs ++ rest) s = .next (decoded m bs.length s) := by
  simp [endDecode, finishDecode, decoded, toLen]

/-- Settles O18: the declared bytes are read in one piece behind the SID. -/
theorem rawDecodes : Obligations.RawDecodes := by
  intro s sid data rest hcmd hl halloc
  rw [exec_decode _ s hcmd, hl]
  simp only [decodePayload, decodeRaw, readTrailing_within _ _ _ _ halloc, srcRead_append _ data rest _ rfl]
  exact endDecode_ok_append _ data rest s

/-- The engine's value of the staged bytes, every byte used, is the message (R213). -/
theorem decodeDtc_append {table : Entries} {buf : Bytes} {v : Val} (make : Val → Message) (rest : Bytes)
    (h : engineDecode (.union table) buf 0 = .ok (v, buf.length)) :
    decodeDtc table make buf.length (buf ++ rest) = .ok (make v) rest := by
  simp [decodeDtc, srcRead_append, h]

/-- Settles O22: the staged bytes are decoded by the engine, in both directions. -/
theorem dtcDecodes : Obligations.DtcDecodes := by
  intro s v buf rest hcmd hl
  refine ⟨fun htable hv => ?_, fun htable hv => ?_⟩
  · rw [exec_decode _ s hcmd, hl]
    simp only [decodePayload, decodeReadDtcReq, htable, if_true, decodeDtc_append _ rest hv]
    exact (congrArg _ (stageDtc_append buf rest s hcmd hl)).trans (endDecode_ok_append _ buf rest _)
  · rw [exec_decode _ s hcmd, hl]
    simp only [decodePayload, decodeReadDtcRsp, htable, if_true, decodeDtc_append _ rest hv]
    exact (congrArg _ (stageDtc_append buf rest s hcmd hl)).trans (endDecode_ok_append _ buf rest _)

end Sys2Proof.Machine
end

section
/-! ENCODE of a message it must reject: the fault of the first ill-formed field (R25, R181), and that of a DTC value the
engine cannot encode (R128, R214). -/

namespace Sys2Proof.Machine

open Stated

/-- An ENCODE whose writes fault. -/
theorem step_encode_fail {s : State} {m : Message} {rest : List HostMove} {e : CodecError} {written : Bytes}
    (h : s.host = .encode m :: rest) (hfail : encodeMessage s.params m s.snk = .fail e written) :
    step s = .next (failEncode e written (beginMessage .encode m (popMove rest s))) := by
  rw [step_encode s m rest h]
  simp [messageCommand, hfail, endEncode]

/-! ### Ill-formed fields -/

/-- The writes fault with a kind, no cause, and the width recorded if there is one. -/
def WriteResult.Raises (f : ErrKind × Option Nat) (r : WriteResult) : Prop :=
  ∃ e written, r = .fail e written ∧ ∀ text, (e.record text).kind = f.1 ∧ (e.record text).cause = .none ∧
    (e.record text).value = f.2.map (BitVec.ofNat 32) ∧ (e.record text).expected = none

theorem raises_width (w : Nat) (snk : Bytes) :
    (WriteResult.fail (.unexpectedPayloadType w) snk).Raises (.unexpectedPayloadType, some w) :=
  ⟨_, _, rfl, fun _ => ⟨rfl, rfl, rfl, rfl⟩⟩

theorem raises_encoding (snk : Bytes) :
    (WriteResult.fail (.encodingError .none) snk).Raises (.encodingError, none) :=
  ⟨_, _, rfl, fun _ => ⟨rfl, rfl, rfl, rfl⟩⟩

theorem widthFault_eq_none_iff (w : Nat) : widthFault w = none ↔ legalWidth w = true := by
  rw [legalWidth_iff, widthFault]
  split <;> simp_all

theorem valueFault_eq_none_iff (w : Nat) (v : Word) : valueFault w v = none ↔ v.toNat < 256 ^ w := by
  simp [valueFault]

theorem fits_iff (w : Nat) (v : Word) : fits w v = true ↔ widthFault w = none ∧ valueFault w v = none := by
  simp [fits, widthFault_eq_none_iff, valueFault_eq_none_iff]

section
variable {f : ErrKind × Option Nat} {later : Option (ErrKind × Option Nat)} {snk : Bytes}

/-- A width check raises the fault of its width, or what comes later does. -/
theorem requireWidth_raises {w : Nat} {k : WriteResult} (h : (widthFault w).or later = some f)
    (hk : legalWidth w = true → later = some f → k.Raises f) : (requireWidth w snk k).Raises f := by
  unfold requireWidth
  split
  · next hw =>
    rw [(widthFault_eq_none_iff w).mpr hw, Option.none_or] at h
    exact hk hw h
  · next hw =>
    rw [legalWidth_iff] at hw
    rw [widthFault, if_neg hw, Option.some_or] at h
    cases h
    exact raises_width w snk

/-- A write of a value at a legal width raises the fault of the value, or what comes later does. -/
theorem writeVar_raises {c : Params} {w : Nat} {v : Word} {k : Bytes → WriteResult} (hc : c.snkCap = none)
    (hw : legalWidth w = true) (h : (valueFault w v).or later = some f)
    (hk : ∀ mid, later = some f → (k mid).Raises f) : (writeVar c w v snk k).Raises f := by
  rw [writeVar, requireWidth, if_pos hw, requireFits, snkWrite_unbounded _ _ _ _ hc]
  split
  · next hv =>
    rw [valueFault, if_neg (Nat.not_lt.mpr hv), Option.some_or] at h
    cases h
    exact raises_encoding snk
  · next hv =>
    rw [(valueFault_eq_none_iff w v).mpr (Nat.not_le.mp hv), Option.none_or] at h
    exact hk _ h

/-- The write of the last value of a message. -/
theorem writeVar_raises_last {c : Params} {w : Nat} {v : Word} {k : Bytes → WriteResult} (hc : c.snkCap = none)
    (hw : legalWidth w = true) (h : valueFault w v = some f) : (writeVar c w v snk k).Raises f :=
  writeVar_raises (later := none) hc hw (by rw [h]; rfl) nofun

/-- A check of RequestFileTransfer raises EncodingError, or what comes later raises its own fault. -/
theorem requireOk_raises {ok : Bool} {k : WriteResult} (hf : ok = false → f = (.encodingError, none))
    (hk : ok = true → k.Raises f) : (requireOk ok snk k).Raises f := by
  unfold requireOk
  split
  · next h => exact hk h
  · next h =>
    rw [hf (by simpa using h)]
    exact raises_encoding snk

theorem snkWrite_raises {c : Params} {bs : Bytes} {k : Bytes → WriteResult} (hc : c.snkCap = none)
    (hk : ∀ mid, (k mid).Raises f) : (snkWrite c bs snk k).Raises f := by
  rw [snkWrite_unbounded c bs snk k hc]
  exact hk _

end

theorem writeDownload_raises {c : Params} {d : Download} {f : ErrKind × Option Nat} (hc : c.snkCap = none)
    (h : firstIllFormed c (.requestDownloadReq d) = some f) (snk : Bytes) : (writeDownload c d snk).Raises f :=
  snkWrite_raises hc fun _ => requireWidth_raises h fun ha h => requireWidth_raises h fun hs h =>
    snkWrite_raises hc fun _ => writeVar_raises hc ha h fun _ h => writeVar_raises_last hc hs h

theorem writeBlockSize_raises {c : Params} {w : Nibble} {v : Word} {f : ErrKind × Option Nat} (hc : c.snkCap = none)
    (h : firstIllFormed c (.requestDownloadRsp w v) = some f) (snk : Bytes) : (writeBlockSize c w v snk).Raises f :=
  requireWidth_raises h fun hw h => snkWrite_raises hc fun _ => writeVar_raises_last hc hw h

/-- On the five legal modes the model's size group is that of R232. -/
theorem hasSize_eq_carriesSize (c : Params) {mode : Byte} (h : legalMode mode = true) :
    hasSize c mode = carriesSize c mode := by
  have hfive : mode = 1 ∨ mode = 2 ∨ mode = 3 ∨ mode = 4 ∨ mode = 5 := by
    simp only [legalMode, decide_eq_true_eq] at h
    bv_omega
  obtain rfl | rfl | rfl | rfl | rfl := hfive <;> rfl

/-- The fault of the size group, where the mode carries one. -/
def sizeGroupFault (c : Params) (d : FileTransfer) : Option (ErrKind × Option Nat) :=
  if carriesSize c d.mode then
    (widthFault d.fsizeBytes.toNat).or <|
      (valueFault d.fsizeBytes.toNat d.sizeUncompressed).or (valueFault d.fsizeBytes.toNat d.sizeCompressed)
  else none

/-- The checks that come before the size group: mode, path length, UTF-8 (R236). -/
structure HeadOk (d : FileTransfer) : Prop where
  mode : legalMode d.mode = true
  path : d.path.length ≤ 65535
  utf8 : validUtf8 d.path = true

theorem firstIllFormedFile_of_headOk {c : Params} {d : FileTransfer} (h : HeadOk d) :
    firstIllFormedFile c d = sizeGroupFault c d := by
  obtain ⟨hmode, hpath, hutf8⟩ := h
  simp only [legalMode, decide_eq_true_eq] at hmode
  rw [firstIllFormedFile, if_neg (by simp [hutf8]; omega)]
  rfl

theorem firstIllFormedFile_of_not_headOk {c : Params} {d : FileTransfer} (h : ¬ HeadOk d) :
    firstIllFormedFile c d = some (.encodingError, none) := by
  refine if_pos ?_
  by_contra hnone
  push Not at hnone
  obtain ⟨hlow, hhigh, hpath, hutf8⟩ := hnone
  exact h ⟨by simp [legalMode]; omega, by omega, by simpa using hutf8⟩

theorem writeSizes_raises {c : Params} {d : FileTransfer} {f : ErrKind × Option Nat} (hc : c.snkCap = none)
    (hmode : legalMode d.mode = true) (h : sizeGroupFault c d = some f) (snk : Bytes) :
    (writeSizes c d snk).Raises f := by
  unfold sizeGroupFault at h
  rw [writeSizes, hasSize_eq_carriesSize c hmode]
  split at h
  · next hs =>
    rw [if_pos hs]
    exact requireWidth_raises h fun hw h => snkWrite_raises hc fun _ =>
      writeVar_raises hc hw h fun _ h => writeVar_raises_last hc hw h
  · cases h

theorem writeMethod_raises {c : Params} {d : FileTransfer} {f : ErrKind × Option Nat} (hc : c.snkCap = none)
    (hmode : legalMode d.mode = true) (h : sizeGroupFault c d = some f) (snk : Bytes) :
    (writeMethod c d snk).Raises f := by
  unfold writeMethod
  split
  · exact snkWrite_raises hc (writeSizes_raises hc hmode h)
  · exact writeSizes_raises hc hmode h snk

theorem writeFileTransfer_raises {c : Params} {d : FileTransfer} {f : ErrKind × Option Nat} (hc : c.snkCap = none)
    (h : firstIllFormedFile c d = some f) (snk : Bytes) : (writeFileTransfer c d snk).Raises f := by
  have hbad : ¬ HeadOk d → f = (.encodingError, none) := fun hd =>
    Option.some.inj (h.symm.trans (firstIllFormedFile_of_not_headOk hd))
  refine requireOk_raises (fun hm => hbad fun hd => by simp [hd.mode] at hm) fun hmode => ?_
  refine snkWrite_raises hc fun _ => ?_
  refine requireOk_raises (fun hp => hbad fun hd => by simp [hd.path] at hp) fun hpath => ?_
  refine requireOk_raises (fun hu => hbad fun hd => by simp [hd.utf8] at hu) fun hutf8 => ?_
  refine snkWrite_raises hc fun _ => snkWrite_raises hc fun _ => writeMethod_raises hc hmode ?_ _
  rwa [firstIllFormedFile_of_headOk ⟨hmode, by simpa using hpath, hutf8⟩] at h

/-- ENCODE of a message with an ill-formed field raises the fault of the first in wire order (R181). -/
theorem encodeMessage_raises {c : Params} {m : Message} {f : ErrKind × Option Nat} (hc : c.snkCap = none)
    (h : firstIllFormed c m = some f) (snk : Bytes) : (encodeMessage c m snk).Raises f := by
  cases m with
  | requestDownloadReq d => exact snkWrite_raises hc (writeDownload_raises hc h)
  | requestDownloadRsp w v => exact snkWrite_raises hc (writeBlockSize_raises hc h)
  | fileTransferReq d => exact snkWrite_raises hc (writeFileTransfer_raises hc h)
  | fileTransferRsp d => exact snkWrite_raises hc (writeFileTransfer_raises hc h)
  | _ => cases h

/-- The model's test of the RequestFileTransfer fields is that none is ill-formed (R25). -/
theorem wfFileTransfer_iff (c : Params) (d : FileTransfer) :
    wfFileTransfer c d = true ↔ firstIllFormedFile c d = none := by
  by_cases hd : HeadOk d
  · obtain ⟨hmode, hpath, hutf8⟩ := hd
    rw [firstIllFormedFile_of_headOk ⟨hmode, hpath, hutf8⟩, sizeGroupFault, wfFileTransfer,
      hasSize_eq_carriesSize c hmode]
    split
    · next hs =>
      simp only [hmode, hpath, hutf8, hs, fits_iff, Bool.and_eq_true, Bool.or_eq_true, decide_true, Bool.not_true,
        Option.or_eq_none_iff]
      tauto
    · next hs => simp [hmode, hpath, hutf8, hs]
  · rw [firstIllFormedFile_of_not_headOk hd]
    refine iff_of_false (fun hwf => hd ?_) nofun
    simp only [wfFileTransfer, Bool.and_eq_true, decide_eq_true_eq] at hwf
    obtain ⟨⟨⟨hmode, hpath⟩, hutf8⟩, -⟩ := hwf
    exact ⟨hmode, hpath, hutf8⟩

/-- The model's test of R25 is that no field is ill-formed and a DTC value is of its table's shape. -/
theorem wfMessage_iff (c : Params) (m : Message) : wfMessage c m = true ↔ wellFormed c m := by
  cases m with
  | requestDownloadReq d => simp [wfMessage, wellFormed, firstIllFormed, fits_iff, and_assoc, and_left_comm]
  | requestDownloadRsp w v => simp [wfMessage, wellFormed, firstIllFormed, fits_iff]
  | fileTransferReq d => simp [wfMessage, wellFormed, firstIllFormed, wfFileTransfer_iff]
  | fileTransferRsp d => simp [wfMessage, wellFormed, firstIllFormed, wfFileTransfer_iff]
  | _ => simp [wfMessage, wellFormed, firstIllFormed]

/-- Settles O43: the writes of each layout check its fields in wire order. -/
theorem encodeRejectsIllFormed : Obligations.EncodeRejectsIllFormed := by
  refine ⟨fun s m rest kind width h hc hf => ?_, wfMessage_iff⟩
  obtain ⟨e, written, hfail, hrecord⟩ := encodeMessage_raises hc hf s.snk
  exact ⟨_, _, step_encode_fail h hfail, rfl, rfl, hrecord _⟩

/-! ### DTC values the engine cannot encode -/

theorem encodeFields_cons_ok_iff (name : String) (shape : Shape) (fields : Entries) (v : Val) (vs : Vals) (bs : Bytes) :
    encodeFields (.cons name shape fields) (.cons v vs) = .ok bs ↔
      ∃ first more, encodeShape shape v = .ok first ∧ encodeFields fields vs = .ok more ∧ bs = first ++ more := by
  simp only [encodeFields]
  cases h : encodeShape shape v with
  | error e => simp
  | ok first =>
    simp only
    cases h' : encodeFields fields vs with
    | error e => simp
    | ok more => simp [eq_comm]

theorem encodeShape_variant_ok_iff (variants : Entries) (index : Byte) (v : Val) (bs : Bytes) :
    encodeShape (.union variants) (.variant index v) = .ok bs ↔
      ∃ more, encodeVariant variants index.toNat v = .ok more ∧ bs = index :: more := by
  simp only [encodeShape]
  cases h : encodeVariant variants index.toNat v <;> simp [eq_comm]

/-- What an element test holds of, where the element encodes, holds of every element of a sequence that encodes. -/
theorem allVals_of_encodeSeq {element : Val → Except EngineFail Bytes} {p : Val → Bool}
    (hp : ∀ v bs, element v = .ok bs → p v = true) :
    ∀ vs bs, encodeSeq element vs = .ok bs → allVals p vs = true
  | .nil, _, _ => rfl
  | .cons v vs, bs, h => by
    obtain ⟨first, more, hv, hvs, -⟩ := (encodeSeq_cons_ok_iff element v vs bs).mp h
    simp [allVals, hp v first hv, allVals_of_encodeSeq hp vs more hvs]

/-- Only a value of the shape is encoded; the same for the fields of a record and for every variant. -/
theorem hasShape_of_encodeShape (shape : Shape) : ∀ v bs, encodeShape shape v = .ok bs → hasShape shape v = true := by
  induction shape using Shape.rec
    (motive_2 := fun entries =>
      (∀ vs bs, encodeFields entries vs = .ok bs → fieldsHaveShape entries vs = true) ∧
      (∀ i v bs, encodeVariant entries i v = .ok bs → variantHasShape entries i v = true)) with
  | u8 | u16 | u32 | unit =>
    intro v bs h
    simp only [encodeShape] at h
    split at h
    · rfl
    · cases h
  | record fields ih =>
    intro v bs h
    cases v with
    | record vs => exact ih.1 vs bs h
    | _ => cases h
  | union variants ih =>
    intro v bs h
    cases v with
    | variant index v =>
      obtain ⟨more, hmore, -⟩ := (encodeShape_variant_ok_iff variants index v bs).mp h
      exact ih.2 index.toNat v more hmore
    | _ => cases h
  | seq element ih =>
    intro v bs h
    cases v with
    | seq vs => exact allVals_of_encodeSeq ih vs bs h
    | _ => cases h
  | unsupported what => intro v bs h; cases h
  | nil =>
    refine ⟨fun vs bs h => ?_, fun i v bs h => by cases h⟩
    cases vs with
    | nil => rfl
    | cons v vs => cases h
  | cons name shape rest ihShape ihRest =>
    refine ⟨fun vs bs h => ?_, fun i v bs h => ?_⟩
    · cases vs with
      | nil => cases h
      | cons v vs =>
        obtain ⟨first, more, hv, hvs, -⟩ := (encodeFields_cons_ok_iff name shape rest v vs bs).mp h
        simp [fieldsHaveShape, ihShape v first hv, ihRest.1 vs more hvs]
    · cases i with
      | zero => exact ihShape v bs h
      | succ i => exact ihRest.2 i v bs h

/-- Every element of a sequence that encodes is encoded. -/
theorem encodeSeq_mem {element : Val → Except EngineFail Bytes} {v : Val} :
    ∀ vs bs, encodeSeq element vs = .ok bs → v ∈ valueList vs → ∃ part, element v = .ok part
  | .cons w vs, bs, h, hv => by
    obtain ⟨first, more, hw, hvs, -⟩ := (encodeSeq_cons_ok_iff element w vs bs).mp h
    obtain rfl | hmem := List.mem_cons.mp hv
    · exact ⟨first, hw⟩
    · exact encodeSeq_mem vs more hvs hmem

/-- Every field of a record that encodes is encoded. -/
theorem encodeFields_get {name : String} {shape : Shape} {v : Val} :
    ∀ (i : Nat) (fields : Entries) (vs : Vals) (bs : Bytes), encodeFields fields vs = .ok bs →
      fields.get? i = some (name, shape) → (valueList vs)[i]? = some v → ∃ part, encodeShape shape v = .ok part
  | i, .cons n sh fields, .cons w vs, bs, h, hf, hv => by
    obtain ⟨first, more, hw, hvs, -⟩ := (encodeFields_cons_ok_iff n sh fields w vs bs).mp h
    cases i with
    | zero => cases hf; cases hv; exact ⟨first, hw⟩
    | succ i => exact encodeFields_get i fields vs more hvs hf (by simpa [valueList] using hv)

/-- A value whose walk reaches an unsupported shape is not encoded (R128). -/
theorem encodeShape_of_reachesUnsupported {shape : Shape} {v : Val} (h : ReachesUnsupported shape v) :
    ∀ bs, encodeShape shape v ≠ .ok bs := by
  induction h with
  | here => exact nofun
  | variant hentry _ ih =>
    intro bs hbs
    obtain ⟨more, hmore, -⟩ := (encodeShape_variant_ok_iff _ _ _ bs).mp hbs
    rw [encodeVariant_eq, hentry] at hmore
    exact ih more hmore
  | field hentry hv _ ih =>
    intro bs hbs
    obtain ⟨part, hpart⟩ := encodeFields_get _ _ _ bs hbs hentry hv
    exact ih part hpart
  | element hv _ ih =>
    intro bs hbs
    obtain ⟨part, hpart⟩ := encodeSeq_mem _ bs hbs hv
    exact ih part hpart

/-- The engine encodes only values of the shape that reach no unsupported one. -/
theorem engineEncode_fails {shape : Shape} {v : Val} (h : hasShape shape v = false ∨ ReachesUnsupported shape v) :
    ∃ e, engineEncode shape v = .error e := by
  cases hr : engineEncode shape v with
  | error e => exact ⟨e, rfl⟩
  | ok bs =>
    obtain hnot | hreach := h
    · cases hnot.symm.trans (hasShape_of_encodeShape shape v bs hr)
    · exact absurd hr (encodeShape_of_reachesUnsupported hreach bs)

/-- The DTC payload then faults before it writes anything (R214). -/
theorem writeDtc_fails {c : Params} {table : Entries} {sub : Val}
    (h : hasShape (.union table) sub = false ∨ ReachesUnsupported (.union table) sub) (snk : Bytes) :
    writeDtc c table sub snk = .fail (.encodingError .protocolMismatch) snk := by
  obtain ⟨e, he⟩ := engineEncode_fails h
  simp [writeDtc, he]

/-- Of a single byte that had been written, a failed ENCODE leaves it or nothing. -/
theorem failEncode_snk_one (e : CodecError) (b : Byte) (s : State) :
    (failEncode e (s.snk ++ [b]) s).snk = s.snk ∨ (failEncode e (s.snk ++ [b]) s).snk = s.snk ++ [b] := by
  rw [failEncode_snk, List.drop_left]
  cases Config.freeCount s.draws <;> simp

/-- Settles O44: after the SID the engine's failure is the fault. -/
theorem encodeOfUnsupportedShapesFaults : Obligations.EncodeOfUnsupportedShapesFaults := by
  intro s sid table m sub rest hdir h hc hbad
  have hfail : encodeMessage s.params m s.snk = .fail (.encodingError .protocolMismatch) (s.snk ++ [sid]) := by
    obtain ⟨rfl, rfl, rfl, htable⟩ | ⟨rfl, rfl, rfl, htable⟩ := hdir
    · simp only [encodeMessage, writePayload, writeReadDtcReq, writeFrame, Message.kind, sidOf,
        snkWrite_unbounded _ _ _ _ hc, htable, if_true, writeDtc_fails hbad]
    · simp only [encodeMessage, writePayload, writeReadDtcRsp, writeFrame, Message.kind, sidOf,
        snkWrite_unbounded _ _ _ _ hc, htable, if_true, writeDtc_fails hbad]
  exact ⟨_, _, step_encode_fail h hfail, rfl, rfl, rfl, rfl, rfl, rfl, failEncode_snk_one _ sid _⟩

end Sys2Proof.Machine
end

section
/-! What holds of every payload decoder: when SrcRead can run out, when an answer is refused, and what more bytes behind
the payload change (R52, R57, R58). -/

namespace Sys2Proof.Machine

/-! ### The decoder of a kind -/

/-- `DecodePayload_K(L, sid)` by the kind: the sub-opcode rows of a kind run the decoder of the kind (R109, R175). -/
def decodeKind (c : Params) (l : Nat) (sid : Byte) (payload : Bytes) : Kind → ReadResult Message
  | .readDidReq => decodeReadDidReq c l payload
  | .readDidRsp => decodeReadDidRsp c l payload
  | .writeDidReq => decodeWriteDidReq c l payload
  | .writeDidRsp => decodeWriteDidRsp c l payload
  | .readDtcReq => decodeReadDtcReq c l payload
  | .readDtcRsp => decodeReadDtcRsp c l payload
  | .requestDownloadReq => decodeRequestDownloadReq c l payload
  | .requestDownloadRsp => decodeRequestDownloadRsp c l payload
  | .fileTransferReq => decodeFileTransferReq c l payload
  | .fileTransferRsp => decodeFileTransferRsp c l payload
  | .transferDataReq => decodeTransferDataReq c l payload
  | .transferDataRsp => decodeTransferDataRsp c l payload
  | .transferExitReq => decodeTransferExitReq c l payload
  | .transferExitRsp => decodeTransferExitRsp c l payload
  | .negativeResponse => decodeNegativeResponse c l payload
  | .raw => decodeRaw sid c l payload

theorem decodePayload_refineDtcReq (c : Params) (l : Nat) (payload : Bytes) :
    decodePayload c l (refineDtcReq payload) = decodeReadDtcReq c l payload := by
  unfold refineDtcReq
  split
  · rfl
  · split_ifs with h
    · rw [h]; rfl
    · rfl

theorem decodePayload_refineFileTransferReq (c : Params) (l : Nat) (payload : Bytes) :
    decodePayload c l (refineFileTransferReq payload) = decodeFileTransferReq c l payload := by
  unfold refineFileTransferReq
  split
  · rfl
  · split_ifs <;> simp_all [decodePayload]

theorem decodePayload_refineFileTransferRsp (c : Params) (l : Nat) (payload : Bytes) :
    decodePayload c l (refineFileTransferRsp payload) = decodeFileTransferRsp c l payload := by
  unfold refineFileTransferRsp
  split
  · rfl
  · split_ifs <;> simp_all [decodePayload]

/-- The instruction of a SID and the bytes after it is decoded by the kind the SID selects (R175). -/
theorem decodePayload_instrOf (c : Params) (l : Nat) (sid : Byte) (payload : Bytes) :
    decodePayload c l (instrOf sid payload) = decodeKind c l sid payload (kindOfSid sid) := by
  unfold instrOf
  cases kindOfSid sid with
  | readDtcReq => exact decodePayload_refineDtcReq c l payload
  | fileTransferReq => exact decodePayload_refineFileTransferReq c l payload
  | fileTransferRsp => exact decodePayload_refineFileTransferRsp c l payload
  | _ => rfl

/-! ### Running out and being refused -/

/-- A reader runs out of bytes only where `cut` holds, and is refused only under parameters that are not supported. -/
def ReadResult.Sound {α : Type} (c : Params) (cut : Prop) : ReadResult α → Prop
  | .ok _ _ => True
  | .short _ => cut
  | .fail _ _ => True
  | .refuse _ => supported c = false

section
variable {α : Type} {c : Params} {cut : Prop} {l n w : Nat} {bs : Bytes} {r : ReadResult α}

theorem srcRead_sound {k : Bytes → Bytes → ReadResult α} (hcut : bs.length < n → cut)
    (hk : n ≤ bs.length → (k (bs.take n) (bs.drop n)).Sound c cut) : (srcRead n bs k).Sound c cut := by
  unfold srcRead
  split
  · next h => exact hcut h
  · next h => exact hk (Nat.not_lt.mp h)

theorem readByte_sound {k : Byte → Bytes → ReadResult α} (hcut : bs.length < 1 → cut)
    (hk : ∀ b more, bs = b :: more → (k b more).Sound c cut) : (readByte bs k).Sound c cut := by
  cases bs with
  | nil => rw [readByte_nil]; exact hcut Nat.zero_lt_one
  | cons b more => rw [readByte_cons]; exact hk b more rfl

theorem readU16_sound {k : Half → Bytes → ReadResult α} (hcut : bs.length < 2 → cut)
    (hk : ∀ v, 2 ≤ bs.length → (k v (bs.drop 2)).Sound c cut) : (readU16 bs k).Sound c cut :=
  srcRead_sound hcut (hk _)

theorem checkWidth_sound (hr : legalWidth w = true → r.Sound c cut) : (checkWidth w bs r).Sound c cut := by
  unfold checkWidth
  split
  · next h => exact hr h
  · trivial

theorem readVar_sound {k : Word → Bytes → ReadResult α} (hcut : bs.length < w → cut)
    (hk : ∀ v, w ≤ bs.length → (k v (bs.drop w)).Sound c cut) : (readVar w bs k).Sound c cut :=
  checkWidth_sound fun _ => srcRead_sound hcut (hk _)

/-- Supported parameters set no allocation limit (R58). -/
theorem maxAlloc_of_supported (h : supported c = true) : c.maxAlloc = none := by
  simp only [supported, Bool.and_eq_true, Option.isNone_iff_eq_none] at h
  obtain ⟨⟨halloc, -⟩, -⟩ := h
  exact halloc

theorem readTrailing_sound {k : Bytes → Bytes → ReadResult α} (hcut : bs.length < n → cut)
    (hk : n ≤ bs.length → (k (bs.take n) (bs.drop n)).Sound c cut) : (readTrailing c n bs k).Sound c cut := by
  unfold readTrailing
  split
  · next h =>
    refine Bool.eq_false_iff.mpr fun hs => ?_
    simp [overAlloc, maxAlloc_of_supported hs] at h
  · exact srcRead_sound hcut hk

theorem checkMin_sound (hr : n ≤ l → r.Sound c cut) : (checkMin l n bs r).Sound c cut := by
  unfold checkMin
  split
  · trivial
  · next h => exact hr (Nat.not_lt.mp h)

theorem checkExact_sound (hr : l = n → r.Sound c cut) : (checkExact l n bs r).Sound c cut := by
  unfold checkExact
  split
  · trivial
  · next h => exact hr (not_not.mp h)

theorem lowNibbleRule_sound {low : Nibble} (hr : r.Sound c cut) : (lowNibbleRule c low bs r).Sound c cut := by
  unfold lowNibbleRule
  split
  · trivial
  · exact hr

theorem checkMode_sound {mode : Byte} (hr : r.Sound c cut) : (checkMode mode bs r).Sound c cut := by
  unfold checkMode
  split
  · exact hr
  · trivial

theorem checkUtf8_sound {path : Bytes} (hr : r.Sound c cut) : (checkUtf8 path bs r).Sound c cut := by
  unfold checkUtf8
  split
  · exact hr
  · trivial

/-- A length check that goes on has seen at least the fixed part (R230). -/
theorem checkFixedPart_sound {mode : Byte} (hr : n ≤ l → r.Sound c cut) :
    (checkFixedPart c mode l n bs r).Sound c cut := by
  unfold checkFixedPart
  split
  · exact checkMin_sound hr
  · exact checkExact_sound fun h => hr h.ge

theorem readMethod_sound {f : FileTransfer} {k : FileTransfer → Bytes → ReadResult Message}
    (hcut : hasMethod c f.mode = true → bs.length < 1 → cut)
    (hk : ∀ f' rest, f'.mode = f.mode → bs.length = (if hasMethod c f.mode then 1 else 0) + rest.length →
      (k f' rest).Sound c cut) : (readMethod c f bs k).Sound c cut := by
  unfold readMethod
  split
  · next hm =>
    refine readByte_sound (hcut hm) fun b more hmore => hk _ more rfl ?_
    rw [hmore, List.length_cons, if_pos hm, Nat.add_comm]
  · next hm => exact hk f bs rfl (by rw [if_neg hm, Nat.zero_add])

theorem readSizes_sound {f : FileTransfer} {k : FileTransfer → Bytes → ReadResult Message}
    (hbyte : hasSize c f.mode = true → bs.length < 1 → cut)
    (hsizes : hasSize c f.mode = true → ∀ w, l = n + 2 * w → bs.length < 1 + 2 * w → cut)
    (hk : ∀ f' rest, (k f' rest).Sound c cut) : (readSizes c l n f bs k).Sound c cut := by
  unfold readSizes
  split
  · next hs =>
    refine readByte_sound (hbyte hs) fun w more hmore => checkWidth_sound fun _ => checkExact_sound fun hl =>
      readVar_sound (fun _ => hsizes hs w.toNat hl ?_) fun _ _ =>
      readVar_sound (fun _ => hsizes hs w.toNat hl ?_) fun _ _ => hk _ _
    all_goals simp only [hmore, List.length_cons, List.length_drop] at *
    all_goals omega
  · exact hk f bs

end

section
variable (c : Params) (l : Nat) (payload : Bytes)

theorem decodeDid_sound (make : Half → Message) : (decodeDid make l payload).Sound c (payload.length < l) :=
  checkExact_sound fun _ => readU16_sound (by omega) fun _ _ => trivial

theorem decodeDidData_sound (make : Half → Bytes → Message) :
    (decodeDidData make c l payload).Sound c (payload.length < l) :=
  checkMin_sound fun _ => readU16_sound (by omega) fun _ _ =>
    readTrailing_sound (by simp only [List.length_drop]; omega) fun _ => trivial

theorem decodeDtc_sound (table : Entries) (make : Val → Message) :
    (decodeDtc table make l payload).Sound c (payload.length < l) := by
  refine srcRead_sound id fun _ => ?_
  split
  · trivial
  · trivial
  · split <;> trivial

theorem decodeReadDtcReq_sound : (decodeReadDtcReq c l payload).Sound c (payload.length < l) := by
  unfold decodeReadDtcReq
  split
  · exact decodeDtc_sound c l payload _ _
  · next h => simp [ReadResult.Sound, supported, h]

theorem decodeReadDtcRsp_sound : (decodeReadDtcRsp c l payload).Sound c (payload.length < l) := by
  unfold decodeReadDtcRsp
  split
  · exact decodeDtc_sound c l payload _ _
  · next h => simp [ReadResult.Sound, supported, h]

theorem decodeRequestDownloadReq_sound : (decodeRequestDownloadReq c l payload).Sound c (payload.length < l) := by
  refine checkMin_sound fun _ => readByte_sound (by omega) fun methodByte rest hrest =>
    readByte_sound ?_ fun descriptor more hmore => checkWidth_sound fun _ => checkWidth_sound fun _ =>
    checkExact_sound fun _ => readVar_sound ?_ fun _ _ => readVar_sound ?_ fun _ _ => trivial
  all_goals simp only [hrest, List.length_cons] at *
  · omega
  · simp only [hmore, List.length_cons]; omega
  · simp only [hmore, List.length_cons, List.length_drop]; omega

theorem decodeRequestDownloadRsp_sound : (decodeRequestDownloadRsp c l payload).Sound c (payload.length < l) := by
  refine checkMin_sound fun _ => readByte_sound (by omega) fun descriptor rest hrest => lowNibbleRule_sound <|
    checkWidth_sound fun _ => checkExact_sound fun _ => readVar_sound ?_ fun _ _ => trivial
  rw [hrest, List.length_cons]
  omega

theorem decodeFileTransfer_sound (make : FileTransfer → Message) :
    (decodeFileTransfer make c l payload).Sound c (payload.length < l) := by
  refine checkMin_sound fun _ => readByte_sound (by omega) fun mode rest hrest => checkMode_sound <|
    readU16_sound ?_ fun pathLength _ => checkFixedPart_sound fun hfixed => srcRead_sound ?_ fun _ =>
    checkUtf8_sound <| readMethod_sound ?_ fun f more hmode hmore => readSizes_sound ?_ ?_ fun _ _ => trivial
  all_goals simp only [hrest, List.length_cons, List.length_drop, fixedPart] at *
  · omega
  · omega
  · intro hm _
    rw [if_pos hm] at hfixed
    omega
  · intro hs _
    rw [hmode] at hs
    rw [if_pos hs] at hfixed
    omega
  · intro hs w hl _
    rw [hmode] at hs
    rw [if_pos hs] at hl
    omega

theorem decodeTransferExit_sound (make : Bytes → Message) :
    (decodeTransferExit make c l payload).Sound c (payload.length < l) :=
  checkMin_sound fun _ => readTrailing_sound id fun _ => trivial

/-- Every payload decoder runs out only of bytes that L declares, and is refused only under parameters that are not
supported. -/
theorem decodeKind_sound (sid : Byte) (k : Kind) :
    (decodeKind c l sid payload k).Sound c (payload.length < l) := by
  cases k with
  | readDidReq | writeDidRsp => exact decodeDid_sound c l payload _
  | readDidRsp | writeDidReq => exact decodeDidData_sound c l payload _
  | readDtcReq => exact decodeReadDtcReq_sound c l payload
  | readDtcRsp => exact decodeReadDtcRsp_sound c l payload
  | requestDownloadReq => exact decodeRequestDownloadReq_sound c l payload
  | requestDownloadRsp => exact decodeRequestDownloadRsp_sound c l payload
  | fileTransferReq | fileTransferRsp => exact decodeFileTransfer_sound c l payload _
  | transferDataReq =>
    refine checkMin_sound fun _ => readByte_sound (by omega) fun seq rest hrest =>
      readTrailing_sound ?_ fun _ => trivial
    rw [hrest, List.length_cons]
    omega
  | transferDataRsp => exact checkExact_sound fun _ => readByte_sound (by omega) fun _ _ _ => trivial
  | transferExitReq | transferExitRsp => exact decodeTransferExit_sound c l payload _
  | negativeResponse =>
    refine checkExact_sound fun _ => readByte_sound (by omega) fun faultedSid rest hrest =>
      readByte_sound ?_ fun _ _ _ => trivial
    rw [hrest, List.length_cons]
    omega
  | raw => exact readTrailing_sound id fun _ => trivial

end

/-- A payload decoder runs out only of declared bytes that are not there (R52, R57). -/
theorem length_lt_of_decodePayload_short {c : Params} {l : Nat} {sid : Byte} {payload rest : Bytes}
    (h : decodePayload c l (instrOf sid payload) = .short rest) : payload.length < l := by
  have hsound := decodeKind_sound c l payload sid (kindOfSid sid)
  rwa [← decodePayload_instrOf, h] at hsound

/-- Under supported parameters no payload decoder is refused (R58, R132). -/
theorem decodePayload_ne_refuse {c : Params} (hc : supported c = true) (l : Nat) (sid : Byte) (payload : Bytes)
    (reason : Refusal) : decodePayload c l (instrOf sid payload) ≠ .refuse reason := by
  intro h
  have hsound := decodeKind_sound c l payload sid (kindOfSid sid)
  rw [← decodePayload_instrOf, h] at hsound
  cases hc.symm.trans hsound

end Sys2Proof.Machine
end

section
/-! How a DECODE can end, said once, and what follows for its result and the source (R57, R69, R172, R176, R177). -/

namespace Sys2Proof.Machine

open Stated

/-! ### Everything a DECODE can be -/

/-- The state in which a DECODE of `plen` ends: of what the host can read, the entry has changed only what it says. -/
structure Entered (s : State) (plen : Len) (rest : List HostMove) (u : State) : Prop where
  cmd : u.cmd = some .decode
  plen : u.plen = plen
  src : u.src = s.src
  snk : u.snk = s.snk
  lengthOut : u.lengthOut = none
  params : u.params = s.params
  host : u.host = rest

theorem entered_begun (s : State) (plen : Len) (rest : List HostMove) :
    Entered s plen rest (beginDecode plen (popMove rest s)) := ⟨rfl, rfl, rfl, rfl, rfl, rfl, rfl⟩

theorem entered_dispatched (s : State) (plen : Len) (rest : List HostMove) (sid : Byte) (buf : Bytes) :
    Entered s plen rest { dispatchPhases sid (beginDecode plen (popMove rest s)) with buf := buf } :=
  ⟨rfl, rfl, rfl, rfl, rfl, rfl, rfl⟩

theorem Entered.window_length {s u : State} {plen : Len} {rest : List HostMove} (hu : Entered s plen rest u) :
    u.window.length = min plen.toNat s.src.remaining.length := by
  rw [Machine.window_length, hu.plen, hu.src, Source.remaining, List.length_drop]

/-- A DECODE ends with a message after exactly PLEN bytes, which were there; with Io where fewer were there; or with
the fault of a check, after bytes it was given (R57, R69, R176). -/
theorem step_decode_ends {s t : State} {plen : Len} {rest : List HostMove} (h : s.host = .decode plen :: rest)
    (ht : step s = .next t) :
    ∃ u, Entered s plen rest u ∧
      ((∃ m, plen.toNat ≤ s.src.remaining.length ∧ t = finishDecode m plen.toNat u) ∨
       (∃ read, s.src.remaining.length < plen.toNat ∧ t = shortDecode read u) ∨
       (∃ e read, read ≤ u.window.length ∧ t = failDecode e read u)) := by
  by_cases hz : plen = 0
  · cases (step_decode_zero h hz).symm.trans ht
    exact ⟨_, entered_begun s plen rest, .inr (.inr ⟨_, 0, Nat.zero_le _, rfl⟩)⟩
  have hl := len_sub_one hz
  cases hw : s.src.remaining.take plen.toNat with
  | nil =>
    cases (step_decode_empty h hz hw).symm.trans ht
    have hempty := congrArg List.length hw
    rw [List.length_take, List.length_nil] at hempty
    exact ⟨_, entered_begun s plen rest, .inr (.inl ⟨0, by omega, rfl⟩)⟩
  | cons sid more =>
    have hgiven := congrArg List.length hw
    rw [List.length_take, List.length_cons] at hgiven
    obtain ⟨buf, hrun⟩ := step_decode_run h hz hw
    have hu := entered_dispatched s plen rest sid buf
    refine ⟨_, hu, ?_⟩
    obtain ⟨m, left, hr, rfl⟩ | ⟨left, hr, rfl⟩ | ⟨e, left, -, rfl⟩ :=
      (endDecode_next_iff _ more _ t).mp (hrun.symm.trans ht)
    · obtain ⟨htaken, -⟩ := decodePayload_ok hr
      rw [instrOf_payload] at htaken
      refine .inl ⟨m, by omega, ?_⟩
      congr 1
      change 1 + _ = _
      omega
    · have hcut := length_lt_of_decodePayload_short hr
      exact .inr (.inl ⟨_, by omega, rfl⟩)
    · refine .inr (.inr ⟨e, _, ?_, rfl⟩)
      rw [hu.window_length, hgiven, Nat.add_comm]
      exact Nat.add_le_add_right (Nat.sub_le _ _) 1

/-- Settles O25: only the end with a message leaves STATUS OK. -/
theorem decodeConsumesExactly : Obligations.DecodeConsumesExactly := by
  intro s t plen rest h ht hok
  obtain ⟨u, hu, ⟨m, hlen, rfl⟩ | ⟨read, -, rfl⟩ | ⟨e, read, -, rfl⟩⟩ := step_decode_ends h ht
  · have hpos : (finishDecode m plen.toNat u).src = { s.src with pos := s.src.pos + plen.toNat } := by
      rw [finishDecode_src, hu.src]
    refine ⟨by simp [toLen], by rw [hpos], by rw [hpos], hlen, ?_, hu.snk⟩
    rw [remaining, remaining, hpos, List.drop_drop]
  · cases hok
  · cases hok

/-- Settles O26: Io is raised only where the source ends within PLEN bytes, and a check stops within what was given. -/
theorem decodeFaultReturnsNoMessage : Obligations.DecodeFaultReturnsNoMessage := by
  intro s t plen rest h ht hfault
  obtain ⟨u, hu, ⟨m, -, rfl⟩ | ⟨read, hcut, rfl⟩ | ⟨e, read, hread, rfl⟩⟩ := step_decode_ends h ht
  · cases hfault
  · refine ⟨rfl, nofun, rfl, hu.host, hu.snk, hu.params, hu.cmd, hu.plen, hu.lengthOut, by simp [hu.src],
      fun hin => ?_⟩
    rw [Source.remaining, List.length_drop] at hcut
    rw [shortDecode_src, hu.src]
    exact ⟨hin, by simp only; omega⟩
  · refine ⟨rfl, nofun, rfl, hu.host, hu.snk, hu.params, hu.cmd, hu.plen, hu.lengthOut, by simp [hu.src],
      fun _ => ?_⟩
    have hbounds := drawBetween_bounds _ _ (Config.freeCount u.draws) (Nat.add_le_add_left hread u.src.pos)
    have hwindow := hu.window_length
    rw [failDecode_src]
    simp only [hu.src] at hbounds ⊢
    omega

/-! ### Io (R52) -/

/-- A step that raises Io from SrcRead ends as `endsInIo` says where the source ends within PLEN bytes. -/
theorem endsInIo_of_shortDecode {s u : State} {plen : Len} {rest : List HostMove} {n read : Nat}
    (hu : Entered s plen rest u) (ht : step s = .next (shortDecode n u)) (hread : s.src.pos + read ≤ s.src.bytes.length)
    (hcut : s.src.remaining.length ≤ plen.toNat) : endsInIo s plen read := by
  rw [Source.remaining, List.length_drop] at hcut
  refine ⟨⟨_, _, ht, rfl, rfl, rfl, rfl, rfl, rfl, rfl, rfl, by simp [hu.src], ?_, ?_, hu.snk, hu.params⟩,
    fun t ht' => ?_⟩
  · simpa [hu.src] using hread
  · simp only [shortDecode_src, hu.src]
    omega
  · cases ht.symm.trans ht'
    simp [hu.src]

/-- Settles O28: the source at its end gives DECODE no SID. -/
theorem absentSidIsIo : Obligations.AbsentSidIsIo := by
  intro s plen rest h hz hend
  have hempty : s.src.remaining = [] := by rw [Source.remaining, hend, List.drop_length]
  have ht := step_decode_empty h hz (by rw [hempty, List.take_nil])
  exact (endsInIo_of_shortDecode (entered_begun s plen rest) ht hend.le (by simp [hempty])).1

/-! ### Bytes after the first PLEN (R57) -/

/-- A DECODE that does not run out ends alike in two states that give it the same bytes. -/
theorem endDecode_same_window {r : ReadResult Message} {payload : Bytes} {s s' t : State}
    (ht : endDecode r payload s = .next t) (hr : ∀ rest, r ≠ .short rest) (hrpos : s.rpos = s'.rpos)
    (hpos : s.src.pos = s'.src.pos) (hwindow : s.window = s'.window) (hdraws : s.draws = s'.draws) :
    ∃ t', endDecode r payload s' = .next t' ∧ t'.msg = t.msg ∧ t'.err = t.err ∧ t'.status = t.status ∧
      t'.src.pos = t.src.pos := by
  obtain ⟨m, rest, rfl, rfl⟩ | ⟨rest, hshort, -⟩ | ⟨e, rest, rfl, rfl⟩ := (endDecode_next_iff r payload s t).mp ht
  · exact ⟨_, rfl, by simp [hrpos, hpos]⟩
  · exact absurd hshort (hr rest)
  · exact ⟨_, rfl, by simp [hrpos, hpos, hwindow, hdraws]⟩

/-- So does a whole DECODE whose PLEN bytes are there: SrcRead does not run out. -/
theorem step_decode_same_window {s s' t : State} {plen : Len} {rest rest' : List HostMove}
    (ht : step s = .next t) (h : s.host = .decode plen :: rest) (h' : s'.host = .decode plen :: rest')
    (hparams : s.params = s'.params) (hpos : s.src.pos = s'.src.pos) (hdraws : s.draws = s'.draws)
    (hfull : plen.toNat ≤ s.src.remaining.length)
    (hsame : s.src.remaining.take plen.toNat = s'.src.remaining.take plen.toNat) :
    ∃ t', step s' = .next t' ∧ t'.msg = t.msg ∧ t'.err = t.err ∧ t'.status = t.status ∧ t'.src.pos = t.src.pos := by
  by_cases hz : plen = 0
  · cases (step_decode_zero h hz).symm.trans ht
    refine ⟨_, step_decode_zero h' hz, rfl, rfl, rfl, ?_⟩
    simp [window_beginDecode, hsame, hpos, hdraws]
  have hl := len_sub_one hz
  cases hw : s.src.remaining.take plen.toNat with
  | nil =>
    have hempty := congrArg List.length hw
    rw [List.length_take, List.length_nil] at hempty
    omega
  | cons sid more =>
    have hlen := congrArg List.length hw
    rw [List.length_take, List.length_cons] at hlen
    obtain ⟨buf, hrun⟩ := step_decode_run h hz hw
    obtain ⟨buf', hrun'⟩ := step_decode_run h' hz (hsame ▸ hw)
    rw [hrun, hparams] at ht
    rw [hrun']
    refine endDecode_same_window ht (fun left hr => ?_) rfl hpos hsame hdraws
    have hcut := length_lt_of_decodePayload_short hr
    omega

/-- Settles O41: the first PLEN bytes of the two sources are the same. -/
theorem bytesBeyondPlenAreNotRead : Obligations.BytesBeyondPlenAreNotRead := by
  intro s plen rest bs tail tail' h hlen t ht
  have hwindow : ∀ more : Bytes, ({ bytes := bs ++ more, pos := 0 } : Source).remaining.take plen.toNat = bs := by
    intro more
    rw [Source.remaining, List.drop_zero, ← hlen, List.take_left]
  exact step_decode_same_window ht h h rfl rfl rfl (by simp [Source.remaining, hlen])
    ((hwindow tail).trans (hwindow tail').symm)

end Sys2Proof.Machine
end

section
/-! Every step completes: no command ends in a fault of the model, and under supported parameters none is refused (R58,
R132, R171). -/

namespace Sys2Proof.Machine

/-! ### The writes of ENCODE -/

/-- The writes are not refused. -/
def WriteResult.Answers (r : WriteResult) : Prop := ∀ reason, r ≠ .refuse reason

theorem answers_ok (snk : Bytes) : (WriteResult.ok snk).Answers := nofun
theorem answers_fail (e : CodecError) (snk : Bytes) : (WriteResult.fail e snk).Answers := nofun

section
variable {c : Params} {bs snk : Bytes} {w n : Nat} {r : WriteResult} {k : Bytes → WriteResult}

theorem snkWrite_answers (hk : ∀ mid, (k mid).Answers) : (snkWrite c bs snk k).Answers := by
  unfold snkWrite
  split
  · exact answers_fail _ _
  · exact hk _

theorem requireWidth_answers (hr : r.Answers) : (requireWidth w snk r).Answers := by
  unfold requireWidth
  split
  · exact hr
  · exact answers_fail _ _

theorem requireFits_answers (hr : r.Answers) : (requireFits w n snk r).Answers := by
  unfold requireFits
  split
  · exact answers_fail _ _
  · exact hr

theorem requireOk_answers {ok : Bool} (hr : r.Answers) : (requireOk ok snk r).Answers := by
  unfold requireOk
  split
  · exact hr
  · exact answers_fail _ _

theorem writeVar_answers {v : Word} (hk : ∀ mid, (k mid).Answers) : (writeVar c w v snk k).Answers :=
  requireWidth_answers <| requireFits_answers <| snkWrite_answers hk

end

section
variable (c : Params) (snk : Bytes)

theorem writeDtc_answers (table : Entries) (sub : Val) : (writeDtc c table sub snk).Answers := by
  unfold writeDtc
  split
  · exact answers_fail _ _
  · exact snkWrite_answers answers_ok

theorem writeDownload_answers (f : Download) : (writeDownload c f snk).Answers :=
  snkWrite_answers fun _ => requireWidth_answers <| requireWidth_answers <| snkWrite_answers fun _ =>
    writeVar_answers fun _ => writeVar_answers answers_ok

theorem writeSizes_answers (f : FileTransfer) : (writeSizes c f snk).Answers := by
  unfold writeSizes
  split
  · exact requireWidth_answers <| snkWrite_answers fun _ => writeVar_answers fun _ => writeVar_answers answers_ok
  · exact answers_ok snk

theorem writeMethod_answers (f : FileTransfer) : (writeMethod c f snk).Answers := by
  unfold writeMethod
  split
  · exact snkWrite_answers fun _ => writeSizes_answers c _ f
  · exact writeSizes_answers c snk f

theorem writeFileTransfer_answers (f : FileTransfer) : (writeFileTransfer c f snk).Answers :=
  requireOk_answers <| snkWrite_answers fun _ => requireOk_answers <| requireOk_answers <|
    snkWrite_answers fun _ => snkWrite_answers fun _ => writeMethod_answers c _ f

end

/-- Under supported parameters both DTC tables are as R132 and R211 say. -/
theorem tables_of_supported {c : Params} (h : supported c = true) :
    reqTableOk c.dtcReqTable = true ∧ tableOk c.dtcRspTable = true := by
  simp only [supported, Bool.and_eq_true] at h
  obtain ⟨⟨-, hreq⟩, hrsp⟩ := h
  exact ⟨hreq, hrsp⟩

/-- Only a DTC table that is not well-formed is refused (R132). -/
theorem writePayload_answers {c : Params} (hc : supported c = true) (m : Message) {writes : Bytes → WriteResult}
    (hw : writePayload c m = some writes) (snk : Bytes) : (writes snk).Answers := by
  obtain ⟨hreq, hrsp⟩ := tables_of_supported hc
  cases m <;> obtain rfl := Option.some.inj hw
  case readDidReq | writeDidRsp | transferDataRsp | transferExitReq | transferExitRsp | raw =>
    exact snkWrite_answers answers_ok
  case readDidRsp | writeDidReq | transferDataReq | negativeResponse =>
    exact snkWrite_answers fun _ => snkWrite_answers answers_ok
  case readDtcReq sub =>
    simp only [hreq, if_true]
    exact writeDtc_answers c snk _ sub
  case readDtcRsp sub =>
    simp only [hrsp, if_true]
    exact writeDtc_answers c snk _ sub
  case requestDownloadReq f => exact writeDownload_answers c snk f
  case requestDownloadRsp w v =>
    exact requireWidth_answers <| snkWrite_answers fun _ => writeVar_answers answers_ok
  case fileTransferReq f | fileTransferRsp f => exact writeFileTransfer_answers c snk f

theorem encodeMessage_answers {c : Params} (hc : supported c = true) (m : Message) (snk : Bytes) :
    (encodeMessage c m snk).Answers := by
  unfold encodeMessage
  split
  · exact answers_ok snk
  · next writes hw =>
    unfold writeFrame
    split
    · exact writePayload_answers hc m hw snk
    · exact snkWrite_answers (writePayload_answers hc m hw)

/-! ### The ends of the commands -/

/-- How a step ends that is no fault of the model and is refused only under parameters that are not supported. -/
def Ends (c : Params) (o : Host.Outcome State Fault Refusal) : Prop :=
  (∃ t, o = .next t) ∨ (∃ reason, o = .refused reason) ∧ supported c ≠ true

theorem endDecode_ends {c : Params} {r : ReadResult Message} (hr : supported c = true → ∀ reason, r ≠ .refuse reason)
    (payload : Bytes) (s : State) : Ends c (endDecode r payload s) := by
  cases r with
  | refuse reason => exact .inr ⟨⟨reason, rfl⟩, fun hc => hr hc reason rfl⟩
  | _ => exact .inl ⟨_, rfl⟩

theorem endEncode_ends {c : Params} {r : WriteResult} (hr : supported c = true → r.Answers) (s : State) :
    Ends c (endEncode r s) := by
  cases r with
  | refuse reason => exact .inr ⟨⟨reason, rfl⟩, fun hc => hr hc reason rfl⟩
  | _ => exact .inl ⟨_, rfl⟩

/-- DECODE as a pure function runs the decoder of an instruction, or faults before there is one (R172). -/
theorem decodeMessage_ne_refuse {c : Params} (hc : supported c = true) (src : Bytes) (plen : Nat) (reason : Refusal) :
    decodeMessage c src plen ≠ .refuse reason := by
  unfold decodeMessage
  split
  · exact nofun
  · cases memRead src 0 plen with
    | nil => exact nofun
    | cons sid more => exact decodePayload_ne_refuse hc (plen - 1) sid more reason

theorem upgradeRaw_ends (m : Message) (s : State) : Ends s.params (upgradeRaw m s) := by
  cases m with
  | raw bytes =>
    simp only [upgradeRaw]
    split
    · exact .inl ⟨_, rfl⟩
    · exact .inl ⟨_, rfl⟩
    · exact .inl ⟨_, rfl⟩
    · next reason hr => exact .inr ⟨⟨reason, rfl⟩, fun hc => decodeMessage_ne_refuse hc bytes _ reason hr⟩
  | _ => exact .inl ⟨_, rfl⟩

theorem messageCommand_ends (cmd : Cmd) (m : Message) (s : State) : Ends s.params (messageCommand cmd m s) := by
  cases cmd with
  | decode => exact .inl ⟨_, rfl⟩
  | encode => exact endEncode_ends (fun hc => encodeMessage_answers hc m s.snk) s
  | upgrade => exact upgradeRaw_ends m s
  | length => exact .inl ⟨_, rfl⟩

theorem step_decode_ends_or_refused {s : State} {plen : Len} {rest : List HostMove}
    (h : s.host = .decode plen :: rest) : Ends s.params (step s) := by
  by_cases hz : plen = 0
  · exact .inl ⟨_, step_decode_zero h hz⟩
  cases hw : s.src.remaining.take plen.toNat with
  | nil => exact .inl ⟨_, step_decode_empty h hz hw⟩
  | cons sid more =>
    obtain ⟨buf, hrun⟩ := step_decode_run h hz hw
    rw [hrun]
    exact endDecode_ends (fun hc => decodePayload_ne_refuse hc _ sid more) more _

theorem step_ends (s : State) : Ends s.params (step s) := by
  cases h : s.host with
  | nil => exact .inl ⟨s, by simp [step, h]⟩
  | cons move rest =>
    cases move with
    | decode plen => exact step_decode_ends_or_refused h
    | encode m => rw [step_encode s m rest h]; exact messageCommand_ends .encode m _
    | upgrade m => rw [step_upgrade s m rest h]; exact messageCommand_ends .upgrade m _
    | length m => rw [step_length s m rest h]; exact messageCommand_ends .length m _
    | _ => exact .inl ⟨_, step_hostMove h rfl⟩

/-- Settles O58: a step gives a next state or is refused, and a refusal has its parameter. -/
theorem everyStepCompletes : Obligations.EveryStepCompletes := by
  refine ⟨fun s f hf => ?_, fun s hc => ?_⟩
  · obtain ⟨t, ht⟩ | ⟨⟨reason, hr⟩, -⟩ := step_ends s
    · cases ht.symm.trans hf
    · cases hr.symm.trans hf
  · exact (step_ends s).resolve_right fun hrefused => hrefused.2 hc

end Sys2Proof.Machine
end

section
/-! A source that ends inside the declared bytes (R52, R69): where SrcRead runs out, and how the answer to more bytes
follows from the answer to the first of them. -/

namespace Sys2Proof.Machine

open Stated

/-! ### What more bytes change -/

/-- `r'` answers as `r` does, with more bytes left; where `r` ran out, `r'` may answer anything. -/
def ReadResult.Extends {α : Type} (more : Bytes) (r r' : ReadResult α) : Prop :=
  match r with
  | .ok v rest => r' = .ok v (rest ++ more)
  | .short _ => True
  | .fail e rest => r' = .fail e (rest ++ more)
  | .refuse reason => r' = .refuse reason

section
variable {α : Type} {c : Params} {l n w : Nat} {bs more : Bytes} {r r' : ReadResult α}

theorem srcRead_extends {k : Bytes → Bytes → ReadResult α}
    (hk : ∀ v rest, (k v rest).Extends more (k v (rest ++ more))) :
    (srcRead n bs k).Extends more (srcRead n (bs ++ more) k) := by
  by_cases h : bs.length < n
  · rw [srcRead_short n bs k h]
    trivial
  · have hn : n ≤ bs.length := Nat.not_lt.mp h
    have hn' : ¬ (bs ++ more).length < n := by rw [List.length_append]; omega
    rw [srcRead, if_neg h, srcRead, if_neg hn', List.take_append_of_le_length hn, List.drop_append_of_le_length hn]
    exact hk _ _

theorem readByte_extends {k : Byte → Bytes → ReadResult α}
    (hk : ∀ v rest, (k v rest).Extends more (k v (rest ++ more))) :
    (readByte bs k).Extends more (readByte (bs ++ more) k) :=
  srcRead_extends fun _ _ => hk _ _

theorem readU16_extends {k : Half → Bytes → ReadResult α}
    (hk : ∀ v rest, (k v rest).Extends more (k v (rest ++ more))) :
    (readU16 bs k).Extends more (readU16 (bs ++ more) k) :=
  srcRead_extends fun _ _ => hk _ _

theorem readTrailing_extends {k : Bytes → Bytes → ReadResult α}
    (hk : ∀ v rest, (k v rest).Extends more (k v (rest ++ more))) :
    (readTrailing c n bs k).Extends more (readTrailing c n (bs ++ more) k) := by
  unfold readTrailing
  split
  · rfl
  · exact srcRead_extends hk

theorem checkMin_extends (hr : r.Extends more r') :
    (checkMin l n bs r).Extends more (checkMin l n (bs ++ more) r') := by
  unfold checkMin
  split
  · rfl
  · exact hr

theorem checkExact_extends (hr : r.Extends more r') :
    (checkExact l n bs r).Extends more (checkExact l n (bs ++ more) r') := by
  unfold checkExact
  split
  · rfl
  · exact hr

theorem checkWidth_extends (hr : r.Extends more r') :
    (checkWidth w bs r).Extends more (checkWidth w (bs ++ more) r') := by
  unfold checkWidth
  split
  · exact hr
  · rfl

theorem readVar_extends {k : Word → Bytes → ReadResult α}
    (hk : ∀ v rest, (k v rest).Extends more (k v (rest ++ more))) :
    (readVar w bs k).Extends more (readVar w (bs ++ more) k) :=
  checkWidth_extends <| srcRead_extends fun _ _ => hk _ _

theorem lowNibbleRule_extends {low : Nibble} (hr : r.Extends more r') :
    (lowNibbleRule c low bs r).Extends more (lowNibbleRule c low (bs ++ more) r') := by
  unfold lowNibbleRule
  split
  · rfl
  · exact hr

theorem checkMode_extends {mode : Byte} (hr : r.Extends more r') :
    (checkMode mode bs r).Extends more (checkMode mode (bs ++ more) r') := by
  unfold checkMode
  split
  · exact hr
  · rfl

theorem checkUtf8_extends {path : Bytes} (hr : r.Extends more r') :
    (checkUtf8 path bs r).Extends more (checkUtf8 path (bs ++ more) r') := by
  unfold checkUtf8
  split
  · exact hr
  · rfl

theorem checkFixedPart_extends {mode : Byte} (hr : r.Extends more r') :
    (checkFixedPart c mode l n bs r).Extends more (checkFixedPart c mode l n (bs ++ more) r') := by
  unfold checkFixedPart
  split
  · exact checkMin_extends hr
  · exact checkExact_extends hr

theorem readMethod_extends {f : FileTransfer} {k : FileTransfer → Bytes → ReadResult Message}
    (hk : ∀ f rest, (k f rest).Extends more (k f (rest ++ more))) :
    (readMethod c f bs k).Extends more (readMethod c f (bs ++ more) k) := by
  unfold readMethod
  split
  · exact readByte_extends fun _ _ => hk _ _
  · exact hk f bs

theorem readSizes_extends {f : FileTransfer} {k : FileTransfer → Bytes → ReadResult Message}
    (hk : ∀ f rest, (k f rest).Extends more (k f (rest ++ more))) :
    (readSizes c l n f bs k).Extends more (readSizes c l n f (bs ++ more) k) := by
  unfold readSizes
  split
  · exact readByte_extends fun _ _ => checkWidth_extends <| checkExact_extends <| readVar_extends fun _ _ =>
      readVar_extends fun _ _ => hk _ _
  · exact hk f bs

theorem decodeDid_extends (make : Half → Message) :
    (decodeDid make l bs).Extends more (decodeDid make l (bs ++ more)) :=
  checkExact_extends <| readU16_extends fun _ _ => rfl

theorem decodeDidData_extends (make : Half → Bytes → Message) :
    (decodeDidData make c l bs).Extends more (decodeDidData make c l (bs ++ more)) :=
  checkMin_extends <| readU16_extends fun _ _ => readTrailing_extends fun _ _ => rfl

theorem decodeDtc_extends (table : Entries) (make : Val → Message) :
    (decodeDtc table make l bs).Extends more (decodeDtc table make l (bs ++ more)) := by
  refine srcRead_extends fun buf rest => ?_
  split
  · rfl
  · rfl
  · split <;> rfl

theorem decodeFileTransfer_extends (make : FileTransfer → Message) :
    (decodeFileTransfer make c l bs).Extends more (decodeFileTransfer make c l (bs ++ more)) :=
  checkMin_extends <| readByte_extends fun _ _ => checkMode_extends <| readU16_extends fun _ _ =>
    checkFixedPart_extends <| srcRead_extends fun _ _ => checkUtf8_extends <| readMethod_extends fun _ _ =>
    readSizes_extends fun _ _ => rfl

theorem decodeTransferExit_extends (make : Bytes → Message) :
    (decodeTransferExit make c l bs).Extends more (decodeTransferExit make c l (bs ++ more)) :=
  checkMin_extends <| readTrailing_extends fun _ _ => rfl

end

/-- More bytes behind the payload change no answer of a payload decoder that did not run out (R57). -/
theorem decodeKind_extends (c : Params) (l : Nat) (sid : Byte) (bs more : Bytes) (k : Kind) :
    (decodeKind c l sid bs k).Extends more (decodeKind c l sid (bs ++ more) k) := by
  cases k with
  | readDidReq | writeDidRsp => exact decodeDid_extends _
  | readDidRsp | writeDidReq => exact decodeDidData_extends _
  | readDtcReq =>
    simp only [decodeKind, decodeReadDtcReq]
    split
    · exact decodeDtc_extends _ _
    · rfl
  | readDtcRsp =>
    simp only [decodeKind, decodeReadDtcRsp]
    split
    · exact decodeDtc_extends _ _
    · rfl
  | requestDownloadReq =>
    exact checkMin_extends <| readByte_extends fun _ _ => readByte_extends fun _ _ => checkWidth_extends <|
      checkWidth_extends <| checkExact_extends <| readVar_extends fun _ _ => readVar_extends fun _ _ => rfl
  | requestDownloadRsp =>
    exact checkMin_extends <| readByte_extends fun _ _ => lowNibbleRule_extends <| checkWidth_extends <|
      checkExact_extends <| readVar_extends fun _ _ => rfl
  | fileTransferReq | fileTransferRsp => exact decodeFileTransfer_extends _
  | transferDataReq => exact checkMin_extends <| readByte_extends fun _ _ => readTrailing_extends fun _ _ => rfl
  | transferDataRsp => exact checkExact_extends <| readByte_extends fun _ _ => rfl
  | transferExitReq | transferExitRsp => exact decodeTransferExit_extends _
  | negativeResponse => exact checkExact_extends <| readByte_extends fun _ _ => readByte_extends fun _ _ => rfl
  | raw => exact readTrailing_extends fun _ _ => rfl

/-! ### Running out -/

/-- SrcRead raised Io inside the payload (R52). -/
def ReadResult.RunsOut {α : Type} (r : ReadResult α) : Prop := ∃ rest, r = .short rest

/-- A cut payload runs out where some bytes behind it would complete it. -/
theorem decodePayload_runsOut_of_append {c : Params} {l : Nat} {sid : Byte} {payload missing rest : Bytes} {m : Message}
    (h : decodePayload c l (instrOf sid (payload ++ missing)) = .ok m rest) (hcut : payload.length < l) :
    (decodePayload c l (instrOf sid payload)).RunsOut := by
  have hext := decodeKind_extends c l sid payload missing (kindOfSid sid)
  rw [← decodePayload_instrOf, ← decodePayload_instrOf, h] at hext
  cases hr : decodePayload c l (instrOf sid payload) with
  | ok m' left =>
    obtain ⟨hlen, -⟩ := decodePayload_ok hr
    rw [instrOf_payload] at hlen
    omega
  | short left => exact ⟨left, rfl⟩
  | fail e left => rw [hr] at hext; cases hext
  | refuse reason => rw [hr] at hext; cases hext

section
variable {c : Params} {l n : Nat} {bs payload : Bytes}

theorem srcRead_runsOut {α : Type} {k : Bytes → Bytes → ReadResult α}
    (hk : n ≤ bs.length → (k (bs.take n) (bs.drop n)).RunsOut) : (srcRead n bs k).RunsOut := by
  unfold srcRead
  split
  · exact ⟨bs, rfl⟩
  · next h => exact hk (Nat.not_lt.mp h)

/-- A trailing read that can be allocated runs out of bytes that are not there (R58, R158). -/
theorem readTrailing_runsOut {α : Type} {k : Bytes → Bytes → ReadResult α} (halloc : allocates c l) (hn : n ≤ l)
    (hcut : bs.length < n) : (readTrailing c n bs k).RunsOut := by
  rw [readTrailing_within c n bs k fun most hmost => hn.trans (halloc most hmost), srcRead_short n bs k hcut]
  exact ⟨bs, rfl⟩

theorem readByte_runsOut {α : Type} {k : Byte → Bytes → ReadResult α}
    (hk : ∀ b more, bs = b :: more → (k b more).RunsOut) : (readByte bs k).RunsOut := by
  cases bs with
  | nil => exact ⟨[], readByte_nil k⟩
  | cons b more => rw [readByte_cons]; exact hk b more rfl

theorem decodeDid_runsOut (make : Half → Message) (hl : l = 2) (hcut : payload.length < l) :
    (decodeDid make l payload).RunsOut := by
  subst hl
  rw [decodeDid, checkExact_self]
  exact srcRead_runsOut (by omega)

theorem decodeDidData_runsOut (make : Half → Bytes → Message) (halloc : allocates c l) (hl : 2 ≤ l)
    (hcut : payload.length < l) : (decodeDidData make c l payload).RunsOut := by
  rw [decodeDidData, checkMin_le _ _ _ _ hl]
  exact srcRead_runsOut fun _ => readTrailing_runsOut halloc (Nat.sub_le l 2) (by rw [List.length_drop]; omega)

theorem decodeTransferDataReq_runsOut (halloc : allocates c l) (hl : 1 ≤ l) (hcut : payload.length < l) :
    (decodeTransferDataReq c l payload).RunsOut := by
  rw [decodeTransferDataReq, checkMin_le _ _ _ _ hl]
  refine readByte_runsOut fun seq more hmore => ?_
  rw [hmore, List.length_cons] at hcut
  exact readTrailing_runsOut halloc (Nat.sub_le l 1) (by omega)

theorem decodeTransferDataRsp_runsOut (hl : l = 1) (hcut : payload.length < l) :
    (decodeTransferDataRsp c l payload).RunsOut := by
  subst hl
  rw [decodeTransferDataRsp, checkExact_self]
  exact srcRead_runsOut (by omega)

theorem decodeTransferExit_runsOut (make : Bytes → Message) (halloc : allocates c l) (hcut : payload.length < l) :
    (decodeTransferExit make c l payload).RunsOut := by
  rw [decodeTransferExit, checkMin_zero]
  exact readTrailing_runsOut halloc le_rfl hcut

theorem decodeNegativeResponse_runsOut (hl : l = 2) (hcut : payload.length < l) :
    (decodeNegativeResponse c l payload).RunsOut := by
  subst hl
  rw [decodeNegativeResponse, checkExact_self]
  refine readByte_runsOut fun faultedSid more hmore => srcRead_runsOut ?_
  rw [hmore, List.length_cons] at hcut
  omega

/-- The staging read comes before the engine, so it runs out whatever the bytes (R213). -/
theorem decodeDtc_runsOut (table : Entries) (make : Val → Message) (hcut : payload.length < l) :
    (decodeDtc table make l payload).RunsOut :=
  srcRead_runsOut (by omega)

/-- On the five legal modes the model's method byte is that of R232. -/
theorem hasMethod_eq_carriesMethod (c : Params) {mode : Byte} (h : legalMode mode = true) :
    hasMethod c mode = carriesMethod c mode := by
  have hfive : mode = 1 ∨ mode = 2 ∨ mode = 3 ∨ mode = 4 ∨ mode = 5 := by
    simp only [legalMode, decide_eq_true_eq] at h
    bv_omega
  obtain rfl | rfl | rfl | rfl | rfl := hfive <;> rfl

/-- The length of the fixed part, with the groups of R232 as the table has them (R230). -/
theorem fixedPart_eq (c : Params) {mode : Byte} (h : legalMode mode = true) (pathLength : Nat) :
    fixedPart c mode pathLength =
      3 + pathLength + (if carriesMethod c mode then 1 else 0) + (if carriesSize c mode then 1 else 0) := by
  rw [fixedPart, hasMethod_eq_carriesMethod c h, hasSize_eq_carriesSize c h]

/-- A length the fixed part accepts lets the decoder go on (R230). -/
theorem checkFixedPart_accepts {α : Type} {mode : Byte} {r : ReadResult α} (hmode : legalMode mode = true)
    (hl : if carriesSize c mode then n ≤ l else l = n) : checkFixedPart c mode l n bs r = r := by
  rw [checkFixedPart, hasSize_eq_carriesSize c hmode]
  split
  · next hs => exact checkMin_le _ _ _ _ (by rwa [if_pos hs] at hl)
  · next hs =>
    rw [if_neg hs] at hl
    rw [hl, checkExact_self]

/-- The path is cut (R230). -/
theorem decodeFileTransfer_runsOut (make : FileTransfer → Message) {mode high low : Byte} {after : Bytes}
    (hmode : legalMode mode = true) (hpath : after.length < high.toNat * 256 + low.toNat)
    (hn : n = fixedPart c mode (high.toNat * 256 + low.toNat))
    (hl : if carriesSize c mode then n ≤ l else l = n) :
    (decodeFileTransfer make c l (mode :: high :: low :: after)).RunsOut := by
  have hlow : (BitVec.ofNat 16 (high.toNat * 256 + low.toNat)).toNat = high.toNat * 256 + low.toNat := by
    rw [BitVec.toNat_ofNat]
    omega
  have hthree : 3 ≤ l := by
    unfold fixedPart at hn
    split at hl <;> omega
  rw [decodeFileTransfer, checkMin_le _ _ _ _ hthree, readByte_cons, checkMode, if_pos hmode, readU16_cons, hlow,
    checkFixedPart_accepts hmode (by rwa [← hn])]
  exact srcRead_runsOut (by omega)

end

/-! ### The DECODE that runs out -/

/-- A payload decoder that runs out in the middle of PLEN ends the DECODE in Io at the source's end. -/
theorem endsInIo_of_runsOut {s : State} {plen : Len} {sid : Byte} {rest : List HostMove} {more : Bytes}
    (h : s.host = .decode plen :: rest) (hz : plen ≠ 0) (hrem : s.src.remaining = sid :: more)
    (hcut : (sid :: more).length ≤ plen.toNat)
    (hr : (decodePayload s.params (plen.toNat - 1) (instrOf sid more)).RunsOut) {read : Nat}
    (hread : read ≤ (sid :: more).length) : endsInIo s plen read := by
  obtain ⟨left, hr⟩ := hr
  obtain ⟨buf, hrun⟩ := step_decode_run h hz (by rw [hrem, List.take_of_length_le hcut])
  rw [← len_sub_one hz, Nat.add_sub_cancel] at hr
  rw [hr] at hrun
  have hlen := congrArg List.length hrem
  rw [Source.remaining, List.length_drop, List.length_cons] at hlen
  rw [List.length_cons] at hread
  exact endsInIo_of_shortDecode (entered_dispatched s plen rest sid buf) hrun (by omega) (hrem ▸ hcut)

/-- The same where the statements say how a DECODE starts. -/
theorem endsInIo_of_decodeStarts {s : State} {plen : Len} {sid : Byte} (hstarts : decodeStarts s plen sid)
    (hcut : (remaining s).length < plen.toNat)
    (hr : ∀ more, remaining s = sid :: more → more.length < plen.toNat - 1 →
      (decodeKind s.params (plen.toNat - 1) sid more (kindOfSid sid)).RunsOut) : endsInIo s plen 1 := by
  obtain ⟨rest, more, h, hrem, hz⟩ := hstarts
  rw [hrem] at hcut
  refine endsInIo_of_runsOut h hz hrem hcut.le ?_ (by simp)
  rw [decodePayload_instrOf]
  rw [List.length_cons] at hcut
  exact hr more hrem (by omega)

/-- A source that, with some missing bytes after it, would be decoded, is Io without them. -/
theorem endsInIo_of_completed {s t : State} {plen : Len} {missing : Bytes} {rest : List HostMove}
    (h : s.host = .decode plen :: rest) (hin : s.src.pos ≤ s.src.bytes.length)
    (ht : step { s with src := { bytes := s.src.bytes ++ missing, pos := s.src.pos } } = .next t) (hok : t.status = .ok)
    (hcut : (remaining s).length < plen.toNat) : endsInIo s plen 0 := by
  have hz : plen ≠ 0 := by
    rintro rfl
    simp at hcut
  cases hrem : s.src.remaining with
  | nil =>
    exact endsInIo_of_shortDecode (entered_begun s plen rest) (step_decode_empty h hz (by rw [hrem, List.take_nil])) hin
      (by simp [hrem])
  | cons sid more =>
    have hfull : (sid :: more).length < plen.toNat := hrem ▸ hcut
    have hwindow : ({ bytes := s.src.bytes ++ missing, pos := s.src.pos } : Source).remaining.take plen.toNat =
        sid :: (more ++ missing.take (plen.toNat - (sid :: more).length)) := by
      rw [Source.remaining, List.drop_append_of_le_length hin]
      change (s.src.remaining ++ missing).take plen.toNat = _
      rw [hrem, List.take_append, List.take_of_length_le hfull.le, List.cons_append]
    obtain ⟨buf, hrun⟩ := step_decode_run
      (s := { s with src := { bytes := s.src.bytes ++ missing, pos := s.src.pos } }) h hz hwindow
    refine endsInIo_of_runsOut h hz hrem hfull.le ?_ (Nat.zero_le _)
    have hl := len_sub_one hz
    rw [List.length_cons] at hfull
    obtain ⟨m, left, hr, -⟩ | ⟨left, -, rfl⟩ | ⟨e, left, -, rfl⟩ :=
      (endDecode_next_iff _ _ _ t).mp (hrun.symm.trans ht)
    · rw [← hl, Nat.add_sub_cancel]
      exact decodePayload_runsOut_of_append hr (by omega)
    · cases hok
    · cases hok

/-- Settles O31: the fixed shapes and the trailing data, the staging read, the path, and every kind by its
completion. -/
theorem shortSourceIsIo : Obligations.ShortSourceIsIo := by
  refine ⟨fun s plen sid n hsid halloc hstarts hcut => endsInIo_of_decodeStarts hstarts hcut fun more _ hmore => ?_,
    fun s plen sid htable hstarts hcut => endsInIo_of_decodeStarts hstarts hcut fun more _ hmore => ?_,
    fun s plen sid mode high low after hsid hstarts hrem hone hfive hpath hl => ?_,
    fun s t plen missing rest h hin ht hok hcut => endsInIo_of_completed h hin ht hok hcut⟩
  · simp only [List.mem_cons, Prod.mk.injEq, List.not_mem_nil, or_false] at hsid
    obtain ⟨⟨rfl, rfl⟩ | ⟨rfl, rfl⟩ | ⟨rfl, rfl⟩ | ⟨rfl, rfl⟩ | ⟨rfl, rfl⟩, hn⟩ |
      ⟨⟨rfl, rfl⟩ | ⟨rfl, rfl⟩ | ⟨rfl, rfl⟩ | ⟨rfl, rfl⟩, hn⟩ := hsid
    · exact decodeDidData_runsOut .readDidRsp halloc hn hmore
    · exact decodeDidData_runsOut .writeDidReq halloc hn hmore
    · exact decodeTransferDataReq_runsOut halloc hn hmore
    · exact decodeTransferExit_runsOut .transferExitReq halloc hmore
    · exact decodeTransferExit_runsOut .transferExitRsp halloc hmore
    · exact decodeDid_runsOut .readDidReq hn.symm hmore
    · exact decodeDid_runsOut .writeDidRsp hn.symm hmore
    · exact decodeTransferDataRsp_runsOut (c := s.params) hn.symm hmore
    · exact decodeNegativeResponse_runsOut (c := s.params) hn.symm hmore
  · obtain ⟨rfl, htable⟩ | ⟨rfl, htable⟩ := htable
    · change (decodeReadDtcReq _ _ more).RunsOut
      rw [decodeReadDtcReq, if_pos htable]
      exact decodeDtc_runsOut _ _ hmore
    · change (decodeReadDtcRsp _ _ more).RunsOut
      rw [decodeReadDtcRsp, if_pos htable]
      exact decodeDtc_runsOut _ _ hmore
  · obtain ⟨rest, more, h, hrem', hz⟩ := hstarts
    have hmode : legalMode mode = true := by simp [legalMode, hone, hfive]
    have hfixed := fixedPart_eq s.params hmode (high.toNat * 256 + low.toNat)
    have hcut : (sid :: mode :: high :: low :: after).length ≤ plen.toNat := by
      simp only [List.length_cons]
      dsimp only at hl
      split at hl <;> omega
    refine endsInIo_of_runsOut h hz hrem hcut ?_ (by simp)
    rw [decodePayload_instrOf]
    obtain rfl | rfl := hsid
    · exact decodeFileTransfer_runsOut .fileTransferReq hmode hpath hfixed.symm hl
    · exact decodeFileTransfer_runsOut .fileTransferRsp hmode hpath hfixed.symm hl

end Sys2Proof.Machine
end

section
/-! The bytes of a value and back: big-endian integers, nibbles, and the Codec Engine (R133, R150 to R152). -/

namespace Sys2Proof.Machine

open Stated

/-! ### Integers and nibbles -/

theorem bytesOf_succ (v n : Nat) : bytesOf v (n + 1) = BitVec.ofNat 8 (v / 256 ^ n) :: bytesOf v n := by
  simp only [bytesOf, List.range_succ_eq_map, List.map_cons, List.map_map, Nat.add_sub_cancel, Nat.sub_zero]
  congr 2
  funext i
  simp only [Function.comp_apply]
  congr 3
  omega

@[simp] theorem bytesOf_length (v n : Nat) : (bytesOf v n).length = n := by simp [bytesOf]

/-- `bytes_be` as the sum formula has it (R152). -/
theorem bytesBe_eq_bytesOf (v n : Nat) : bytesBe v n = bytesOf v n := by
  induction n with
  | zero => rfl
  | succ n ih => rw [bytesBe, ih, bytesOf_succ]

/-- A big-endian string behind another (R151). -/
theorem be_append (bs more : Bytes) : be (bs ++ more) = be bs * 256 ^ more.length + be more := by
  induction more using List.reverseRecOn with
  | nil => simp [be]
  | append_singleton more b ih =>
    rw [← List.append_assoc, be_concat, ih, be_concat, List.length_append, List.length_singleton, Nat.pow_succ]
    ring

/-- Reading the bytes of a value gives the value within their bound (R152). -/
theorem be_bytesOf_mod (v n : Nat) : be (bytesOf v n) = v % 256 ^ n := by
  induction n with
  | zero => simp [be, bytesOf, Nat.mod_one]
  | succ n ih =>
    rw [bytesOf_succ, ← List.singleton_append, be_append, ih, bytesOf_length, Nat.pow_succ, Nat.mod_mul]
    simp only [be, List.foldl_cons, List.foldl_nil, BitVec.toNat_ofNat]
    ring

theorem be_bytesOf {v n : Nat} (h : v < 256 ^ n) : be (bytesOf v n) = v := by
  rw [be_bytesOf_mod, Nat.mod_eq_of_lt h]

/-- Pack puts the first nibble high (R150). -/
theorem pack_eq_nibbles : ∀ high low : Nibble, pack high low = nibbles high low := by decide

/-- Split gives the two nibbles back (R150). -/
@[simp] theorem split_nibbles : ∀ high low : Nibble, split (nibbles high low) = (high, low) := by decide

/-- A 16-bit field read from its own bytes (R161). -/
theorem readU16_bytesOf {α : Type} (v : Half) (more : Bytes) (k : Half → Bytes → ReadResult α) :
    readU16 (bytesOf v.toNat 2 ++ more) k = k v more := by
  rw [readU16, srcRead_append _ _ _ _ (bytesOf_length _ _), be_bytesOf v.isLt, BitVec.ofNat_toNat]
  simp

/-- A variable-width field read from its own bytes (R162). -/
theorem readVar_bytesOf {α : Type} {w : Nat} {v : Word} (h : fits w v = true) (more : Bytes)
    (k : Word → Bytes → ReadResult α) : readVar w (bytesOf v.toNat w ++ more) k = k v more := by
  simp only [fits, Bool.and_eq_true, decide_eq_true_eq] at h
  obtain ⟨hw, hv⟩ := h
  rw [readVar_append _ _ _ _ hw (bytesOf_length _ _), be_bytesOf hv, BitVec.ofNat_toNat]
  simp

/-! ### The values of an engine list -/

theorem allVals_iff (p : Val → Bool) : ∀ vs, allVals p vs = true ↔ ∀ v ∈ valueList vs, p v = true
  | .nil => by simp [allVals, valueList]
  | .cons v vs => by simp [allVals, valueList, allVals_iff p vs]

/-- A variant meets no unsupported shape when the entry its index names meets none (R128). -/
theorem variantMeetsNoUnsupported_of_get {name : String} {shape : Shape} {v : Val} :
    ∀ (variants : Entries) (i : Nat), variants.get? i = some (name, shape) →
      variantMeetsNoUnsupported variants i v = meetsNoUnsupported shape v
  | .cons _ _ _, 0, h => by cases h; rfl
  | .cons _ _ rest, i + 1, h => variantMeetsNoUnsupported_of_get rest i h

theorem meetsNoUnsupported_of_field {name : String} {shape : Shape} {v : Val} :
    ∀ (i : Nat) (fields : Entries) (vs : Vals), fieldsMeetNoUnsupported fields vs = true →
      fields.get? i = some (name, shape) → (valueList vs)[i]? = some v → meetsNoUnsupported shape v = true
  | i, .cons _ _ fields, .cons w vs, h, hf, hv => by
    simp only [fieldsMeetNoUnsupported, Bool.and_eq_true] at h
    obtain ⟨hw, hvs⟩ := h
    cases i with
    | zero => cases hf; cases hv; exact hw
    | succ i => exact meetsNoUnsupported_of_field i fields vs hvs hf (by simpa [valueList] using hv)

/-- A value that meets no unsupported shape on decode reaches none on encode (R128). -/
theorem not_reachesUnsupported {shape : Shape} {v : Val} (h : meetsNoUnsupported shape v = true) :
    ¬ ReachesUnsupported shape v := by
  intro hreach
  induction hreach with
  | here => simp [meetsNoUnsupported] at h
  | variant hentry _ ih =>
    rw [meetsNoUnsupported, variantMeetsNoUnsupported_of_get _ _ hentry] at h
    exact ih h
  | field hentry hv _ ih => exact ih (meetsNoUnsupported_of_field _ _ _ h hentry hv)
  | element hv _ ih =>
    simp only [meetsNoUnsupported, Bool.and_eq_true, allVals_iff] at h
    exact ih (h.2 _ hv)

/-! ### Encoding -/

/-- The bytes and the length of a sequence are those of its elements (R127, R129). -/
theorem encodeSeq_values {element : Val → Except EngineFail Bytes} {len : Val → Nat} :
    ∀ vs, (∀ v ∈ valueList vs, element v = .ok (valueBytes v) ∧ len v = (valueBytes v).length) →
      encodeSeq element vs = .ok (valuesBytes vs) ∧ seqLen len vs = (valuesBytes vs).length
  | .nil, _ => ⟨rfl, rfl⟩
  | .cons v vs, h => by
    obtain ⟨hv, hlen⟩ := h v List.mem_cons_self
    obtain ⟨hvs, hlens⟩ := encodeSeq_values vs fun w hw => h w (List.mem_cons_of_mem v hw)
    simp [encodeSeq, seqLen, valuesBytes, hv, hvs, hlen, hlens]

/-- A value of the shape that reaches no unsupported one is encoded as the rules say, and that is its length; the same
for the fields of a record and for every variant (R123 to R129). -/
theorem encodeShape_value (shape : Shape) :
    ∀ v, hasShape shape v = true → ¬ ReachesUnsupported shape v →
      encodeShape shape v = .ok (valueBytes v) ∧ engineLen shape v = (valueBytes v).length := by
  induction shape using Shape.rec
    (motive_2 := fun entries =>
      (∀ vs, fieldsHaveShape entries vs = true →
        (∀ (i : Nat) name shape v, entries.get? i = some (name, shape) → (valueList vs)[i]? = some v →
          ¬ ReachesUnsupported shape v) →
        encodeFields entries vs = .ok (valuesBytes vs) ∧ fieldsLen entries vs = (valuesBytes vs).length) ∧
      (∀ i v, variantHasShape entries i v = true →
        (∀ name shape, entries.get? i = some (name, shape) → ¬ ReachesUnsupported shape v) →
        encodeVariant entries i v = .ok (valueBytes v) ∧ variantLen entries i v = (valueBytes v).length)) with
  | u8 | u16 | u32 =>
    intro v h _
    cases v <;> cases h
    exact ⟨congrArg _ (bytesBe_eq_bytesOf _ _), (bytesOf_length _ _).symm⟩
  | unit =>
    intro v h _
    cases v <;> cases h
    exact ⟨rfl, rfl⟩
  | record fields ih =>
    intro v h hreach
    cases v with
    | record vs => exact ih.1 vs h fun i _ _ _ hf hv hr => hreach (.field hf hv hr)
    | _ => cases h
  | union variants ih =>
    intro v h hreach
    cases v with
    | variant index v =>
      obtain ⟨hv, hlen⟩ := ih.2 index.toNat v h fun _ _ hentry hr => hreach (.variant hentry hr)
      simp [encodeShape, engineLen, valueBytes, hv, hlen, Nat.add_comm]
    | _ => cases h
  | seq element ih =>
    intro v h hreach
    cases v with
    | seq vs =>
      exact encodeSeq_values vs fun v hv => ih v ((allVals_iff _ vs).mp h v hv) fun hr => hreach (.element hv hr)
    | _ => cases h
  | unsupported what => exact fun v _ hreach => absurd .here hreach
  | nil =>
    refine ⟨fun vs h _ => ?_, fun i v h => by cases h⟩
    cases vs <;> cases h
    exact ⟨rfl, rfl⟩
  | cons name shape rest ihShape ihRest =>
    refine ⟨fun vs h hreach => ?_, fun i v h hreach => ?_⟩
    · cases vs with
      | nil => cases h
      | cons v vs =>
        simp only [fieldsHaveShape, Bool.and_eq_true] at h
        obtain ⟨hv, hlen⟩ := ihShape v h.1 (hreach 0 name shape v rfl rfl)
        obtain ⟨hvs, hlens⟩ := ihRest.1 vs h.2 fun i n sh w hf hw => hreach (i + 1) n sh w hf (by simpa [valueList])
        simp [encodeFields, fieldsLen, valuesBytes, hv, hvs, hlen, hlens]
    · cases i with
      | zero => exact ihShape v h (hreach name shape rfl)
      | succ i => exact ihRest.2 i v h hreach

/-! ### Decoding -/

theorem decodeInt_bytesOf {n v : Nat} (h : v < 256 ^ n) (make : Nat → Val) (more : Bytes) :
    decodeInt n make (bytesOf v n ++ more) = .ok (make v, more) := by
  refine (decodeInt_ok_iff n make _ _ _).mpr ⟨by simp, ?_, List.drop_left' (bytesOf_length v n)⟩
  rw [List.take_left' (bytesOf_length v n), be_bytesOf h]

/-- Over no input a shape that holds no sequence and reaches no unsupported shape first either takes nothing or runs
out, as its least length says: it is how a sequence ends (R127, R132). -/
theorem decodeShape_empty (shape : Shape) :
    shapeOk false shape = true → emptyWalkUnsupported shape = false →
      (minLen shape = 0 → ∃ v, decodeShape shape [] = .ok (v, [])) ∧
      (1 ≤ minLen shape → decodeShape shape [] = .error .insufficientData) := by
  induction shape using Shape.rec
    (motive_2 := fun entries => fieldsOk false entries = true → fieldsEmptyWalkUnsupported entries = false →
      (fieldsMinLen entries = 0 → ∃ vs, decodeFields entries [] = .ok (vs, [])) ∧
      (1 ≤ fieldsMinLen entries → decodeFields entries [] = .error .insufficientData)) with
  | u8 | u16 | u32 => exact fun _ _ => ⟨nofun, fun _ => rfl⟩
  | unit => exact fun _ _ => ⟨fun _ => ⟨_, rfl⟩, nofun⟩
  | record fields ih =>
    intro hok hwalk
    obtain ⟨hzero, hpos⟩ := ih hok hwalk
    refine ⟨fun h => ?_, fun h => ?_⟩
    · obtain ⟨vs, hvs⟩ := hzero h
      exact ⟨_, by simp [decodeShape, hvs]; rfl⟩
    · simp [decodeShape, hpos h]
  | union variants _ => exact fun _ _ => ⟨fun h => by simp [minLen] at h, fun _ => rfl⟩
  | seq element _ => exact fun hok => by simp [shapeOk] at hok
  | unsupported what => exact fun _ hwalk => by simp [emptyWalkUnsupported] at hwalk
  | nil => exact ⟨fun _ => ⟨_, rfl⟩, nofun⟩
  | cons name shape rest ihShape ihRest hok hwalk =>
    simp only [fieldsOk, Bool.false_and, Bool.and_eq_true] at hok
    simp only [fieldsEmptyWalkUnsupported, Bool.or_eq_false_iff, Bool.and_eq_false_iff, decide_eq_false_iff_not]
      at hwalk
    obtain ⟨hzero, hpos⟩ := ihShape hok.1 hwalk.1
    by_cases hmin : minLen shape = 0
    · obtain ⟨v, hv⟩ := hzero hmin
      obtain ⟨hzeros, hposs⟩ := ihRest hok.2 (hwalk.2.resolve_left (not_not.mpr hmin))
      refine ⟨fun h => ?_, fun h => ?_⟩
      · obtain ⟨vs, hvs⟩ := hzeros (by rw [fieldsMinLen] at h; omega)
        exact ⟨_, by simp [decodeFields, hv, hvs]; rfl⟩
      · simp [decodeFields, hv, hposs (by rw [fieldsMinLen] at h; omega)]
    · refine ⟨fun h => by rw [fieldsMinLen] at h; omega, fun _ => ?_⟩
      simp [decodeFields, hpos (Nat.one_le_iff_ne_zero.mpr hmin)]

/-- The greedy loop gives the elements back and ends at the end of the input (R127). -/
theorem decodeSeq_values {element : Bytes → Except EngineFail (Val × Bytes)}
    (hend : element [] = .error .insufficientData) :
    ∀ (vs : Vals) (fuel : Nat), (∀ v ∈ valueList vs, ∀ more, element (valueBytes v ++ more) = .ok (v, more)) →
      (valuesBytes vs).length < fuel → decodeSeq element fuel (valuesBytes vs) = .ok (vs, [])
  | .nil, fuel + 1, _, _ => (decodeSeq_succ_ok_iff _ _ _ _ _).mpr (.inl ⟨hend, rfl, rfl⟩)
  | .cons v vs, fuel + 1, helem, hfuel => by
    have hnonempty : valueBytes v ≠ [] := by
      intro hempty
      have hv := helem v List.mem_cons_self []
      rw [hempty, List.append_nil, hend] at hv
      cases hv
    have hpos := List.length_pos_of_ne_nil hnonempty
    rw [valuesBytes, List.length_append] at hfuel
    refine (decodeSeq_succ_ok_iff _ _ _ _ _).mpr (.inr ⟨v, valuesBytes vs, vs, helem v List.mem_cons_self _, ?_, rfl⟩)
    exact decodeSeq_values hend vs fuel (fun w hw => helem w (List.mem_cons_of_mem v hw)) (by omega)

/-- A value of a shape allowed where it stands (R132) is decoded from its own bytes; in tail position they must be the
last ones. The same for the fields of a record and for every variant (R133). -/
theorem decodeShape_value (shape : Shape) :
    ∀ tail v more, shapeOk tail shape = true → hasShape shape v = true → meetsNoUnsupported shape v = true →
      (tail = true → more = []) → decodeShape shape (valueBytes v ++ more) = .ok (v, more) := by
  induction shape using Shape.rec
    (motive_2 := fun entries =>
      (∀ tail vs more, fieldsOk tail entries = true → fieldsHaveShape entries vs = true →
        fieldsMeetNoUnsupported entries vs = true → (tail = true → more = []) →
        decodeFields entries (valuesBytes vs ++ more) = .ok (vs, more)) ∧
      (∀ tail i v more, variantsOk tail entries = true → variantHasShape entries i v = true →
        variantMeetsNoUnsupported entries i v = true → (tail = true → more = []) →
        decodeVariant entries i (valueBytes v ++ more) = .ok (v, more))) with
  | u8 | u16 | u32 =>
    intro tail v more _ h _ _
    cases v <;> cases h
    refine (decodeInt_bytesOf (BitVec.isLt _) _ more).trans ?_
    simp
  | unit =>
    intro tail v more _ h _ _
    cases v <;> cases h
    rfl
  | record fields ih =>
    intro tail v more hok h hmeets hmore
    cases v with
    | record vs => simp [decodeShape, valueBytes, ih.1 tail vs more hok h hmeets hmore]
    | _ => cases h
  | union variants ih =>
    intro tail v more hok h hmeets hmore
    cases v with
    | variant index v =>
      simp only [shapeOk, Bool.and_eq_true] at hok
      exact (decodeShape_union_ok_iff _ _ _ _).mpr
        ⟨index, valueBytes v ++ more, v, rfl, ih.2 tail index.toNat v more hok.2 h hmeets hmore, rfl⟩
    | _ => cases h
  | seq element ih =>
    intro tail v more hok h hmeets hmore
    cases v with
    | seq vs =>
      simp only [shapeOk, Bool.and_eq_true, decide_eq_true_eq] at hok
      obtain ⟨⟨htail, hmin⟩, hok⟩ := hok
      simp only [meetsNoUnsupported, Bool.and_eq_true, Bool.not_eq_true', allVals_iff] at hmeets
      obtain ⟨hwalk, hmeets⟩ := hmeets
      have hend := (decodeShape_empty element hok hwalk).2 hmin
      have hvs := decodeSeq_values hend vs ((valuesBytes vs).length + 1)
        (fun v hv more => ih false v more hok ((allVals_iff _ vs).mp h v hv) (hmeets v hv) nofun) (Nat.lt_succ_self _)
      rw [hmore htail, List.append_nil, valueBytes]
      simp [decodeShape, hvs]
    | _ => cases h
  | unsupported what =>
    intro tail v more _ _ hmeets
    simp [meetsNoUnsupported] at hmeets
  | nil =>
    refine ⟨fun tail vs more _ h _ _ => ?_, fun tail i v more _ h => by cases h⟩
    cases vs <;> cases h
    rfl
  | cons name shape rest ihShape ihRest =>
    refine ⟨fun tail vs more hok h hmeets hmore => ?_, fun tail i v more hok h hmeets hmore => ?_⟩
    · cases vs with
      | nil => cases h
      | cons v vs =>
        simp only [fieldsOk, fieldsHaveShape, fieldsMeetNoUnsupported, Bool.and_eq_true] at hok h hmeets
        have hlast : (tail && noEntries rest) = true → valuesBytes vs ++ more = [] := by
          intro hlast
          simp only [Bool.and_eq_true] at hlast
          cases rest with
          | nil => cases vs <;> cases h.2; exact hmore hlast.1
          | cons _ _ _ => cases hlast.2
        refine (decodeFields_cons_ok_iff _ _ _ _ _ _).mpr
          ⟨v, valuesBytes vs ++ more, vs, ?_, ihRest.1 tail vs more hok.2 h.2 hmeets.2 hmore, rfl⟩
        rw [valuesBytes, List.append_assoc]
        exact ihShape _ v _ hok.1 h.1 hmeets.1 hlast
    · simp only [variantsOk, Bool.and_eq_true] at hok
      cases i with
      | zero => exact ihShape tail v more hok.1 h hmeets hmore
      | succ i => exact ihRest.2 tail i v more hok.2 h hmeets hmore

/-- A value of a well-formed table's union that meets no unsupported shape is decoded from its own bytes, all of them
used (R133). -/
theorem engineDecode_valueBytes {table : Entries} {v : Val} (htable : tableOk table = true)
    (h : hasShape (.union table) v = true) (hmeets : meetsNoUnsupported (.union table) v = true) :
    engineDecode (.union table) (valueBytes v) 0 = .ok (v, (valueBytes v).length) := by
  have hv := decodeShape_value (.union table) true v [] htable h hmeets fun _ => rfl
  rw [List.append_nil] at hv
  exact (engineDecode_zero_ok_iff _ _ _ _).mpr ⟨[], hv, rfl⟩

end Sys2Proof.Machine
end

section
/-! ENCODE of a well-formed message: its bytes as the format gives them, or Io where they pass the capacity (R54, R55,
R178). -/

namespace Sys2Proof.Machine

open Stated

/-- The writes append exactly these bytes where they fit the sink, and raise Io where they do not. -/
def WriteResult.Appends (c : Params) (bs snk : Bytes) (r : WriteResult) : Prop :=
  (WithinCap c (snk ++ bs) → r = .ok (snk ++ bs)) ∧
    (bs ≠ [] → ¬ WithinCap c (snk ++ bs) → ∃ out, r = .fail (.io .none) out)

/-! ### One rule for each operation the writes are made of -/

section
variable {c : Params} {bs more snk : Bytes} {w : Nat} {r : WriteResult} {k : Bytes → WriteResult}

theorem ok_appends : (WriteResult.ok snk).Appends c [] snk :=
  ⟨fun _ => by rw [List.append_nil], fun h => absurd rfl h⟩

/-- A sink that is within its capacity after more bytes was so before them. -/
theorem WithinCap.of_append (h : WithinCap c (snk ++ bs)) : WithinCap c snk := fun cap hcap => by
  have := h cap hcap
  rw [List.length_append] at this
  omega

/-- A write, then what comes after it: the first part that does not fit raises Io. -/
theorem snkWrite_appends (hk : ∀ mid, (k mid).Appends c more mid) :
    (snkWrite c bs snk k).Appends c (bs ++ more) snk := by
  obtain ⟨hfit, hover⟩ := hk (snk ++ bs)
  rw [WriteResult.Appends, ← List.append_assoc]
  refine ⟨fun h => ?_, fun hne hpast => ?_⟩
  · rw [snkWrite_within c bs snk k fun cap hcap => List.length_append ▸ h.of_append cap hcap, hfit h]
  · by_cases hcap : overCap c snk bs = true
    · exact ⟨snk, by rw [snkWrite, if_pos hcap]⟩
    · rw [snkWrite, if_neg hcap, memWrite]
      refine hover (fun hmore => ?_) hpast
      rw [hmore, List.append_nil] at hne hpast
      exact hpast fun cap h =>
        List.length_append ▸ (overCap_eq_false_iff c snk bs).mp (by simpa using hcap) hne cap h

theorem snkWrite_appends_last : (snkWrite c bs snk .ok).Appends c bs snk := by
  simpa using snkWrite_appends (c := c) (bs := bs) (snk := snk) fun _ => ok_appends

theorem writeByte_appends {b : Byte} (hk : ∀ mid, (k mid).Appends c more mid) :
    (writeByte c b snk k).Appends c (b :: more) snk :=
  snkWrite_appends (bs := [b]) hk

theorem writeU16_appends {v : Half} (hk : ∀ mid, (k mid).Appends c more mid) :
    (writeU16 c v snk k).Appends c (bytesOf v.toNat 2 ++ more) snk := by
  rw [writeU16, bytesBe_eq_bytesOf]
  exact snkWrite_appends hk

theorem requireWidth_appends (hw : legalWidth w = true) (hr : r.Appends c bs snk) :
    (requireWidth w snk r).Appends c bs snk := by
  rwa [requireWidth, if_pos hw]

theorem requireOk_appends {ok : Bool} (hok : ok = true) (hr : r.Appends c bs snk) :
    (requireOk ok snk r).Appends c bs snk := by
  rwa [requireOk, if_pos hok]

theorem legalWidth_of_fits {v : Word} (h : fits w v = true) : legalWidth w = true := by
  simp only [fits, Bool.and_eq_true] at h
  exact h.1

theorem writeVar_appends {v : Word} (h : fits w v = true) (hk : ∀ mid, (k mid).Appends c more mid) :
    (writeVar c w v snk k).Appends c (bytesOf v.toNat w ++ more) snk := by
  have hw := legalWidth_of_fits h
  simp only [fits, Bool.and_eq_true, decide_eq_true_eq] at h
  refine requireWidth_appends hw ?_
  rw [requireFits, if_neg (Nat.not_le.mpr h.2), bytesBe_eq_bytesOf]
  exact snkWrite_appends hk

theorem writeVar_appends_last {v : Word} (h : fits w v = true) :
    (writeVar c w v snk .ok).Appends c (bytesOf v.toNat w) snk := by
  simpa using writeVar_appends (c := c) (snk := snk) (more := []) h fun _ => ok_appends

end

/-! ### The layouts -/

section
variable {c : Params} (snk : Bytes)

theorem writeDid_appends (did : Half) : (writeDid c did snk).Appends c (bytesOf did.toNat 2) snk := by
  simpa [writeDid] using writeU16_appends (c := c) (snk := snk) (v := did) (more := []) fun _ => ok_appends

theorem writeDidData_appends (did : Half) (data : Bytes) :
    (writeDidData c did data snk).Appends c (bytesOf did.toNat 2 ++ data) snk :=
  writeU16_appends fun _ => snkWrite_appends_last

/-- A DTC payload over a table that passes its check (R132). -/
theorem writeDtc_appends {table : Entries} {sub : Val} {tableIsOk : Bool} (htable : tableIsOk = true)
    (h : hasShape (.union table) sub = true) (hreach : ¬ ReachesUnsupported (.union table) sub) :
    (if tableIsOk then writeDtc c table sub snk else .refuse .tableIllFormed).Appends c (valueBytes sub) snk := by
  rw [if_pos htable, writeDtc, engineEncode, (encodeShape_value _ sub h hreach).1]
  exact snkWrite_appends_last

/-- The bytes of a RequestDownload.req payload (R89, R91). -/
def downloadBytes (f : Download) : Bytes :=
  nibbles f.compression f.encryption :: nibbles f.sizeBytes f.addrBytes ::
    (bytesOf f.address.toNat f.addrBytes.toNat ++ bytesOf f.size.toNat f.sizeBytes.toNat)

theorem writeDownload_appends {f : Download} (ha : fits f.addrBytes.toNat f.address = true)
    (hs : fits f.sizeBytes.toNat f.size = true) : (writeDownload c f snk).Appends c (downloadBytes f) snk := by
  rw [downloadBytes, ← pack_eq_nibbles, ← pack_eq_nibbles]
  exact writeByte_appends fun _ => requireWidth_appends (legalWidth_of_fits ha) <|
    requireWidth_appends (legalWidth_of_fits hs) <| writeByte_appends fun _ =>
    writeVar_appends ha fun _ => writeVar_appends_last hs

theorem writeBlockSize_appends {w : Nibble} {v : Word} (h : fits w.toNat v = true) :
    (writeBlockSize c w v snk).Appends c (nibbles w 0 :: bytesOf v.toNat w.toNat) snk := by
  rw [← pack_eq_nibbles]
  exact requireWidth_appends (legalWidth_of_fits h) <| writeByte_appends fun _ => writeVar_appends_last h

/-- The fields of a well-formed RequestFileTransfer: the head, and the sizes where the mode carries them (R25). -/
theorem wfFileTransfer_iff_headOk (f : FileTransfer) :
    wfFileTransfer c f = true ↔ HeadOk f ∧ (carriesSize c f.mode = true →
      fits f.fsizeBytes.toNat f.sizeUncompressed = true ∧ fits f.fsizeBytes.toNat f.sizeCompressed = true) := by
  simp only [wfFileTransfer, Bool.and_eq_true, decide_eq_true_eq, Bool.or_eq_true, Bool.not_eq_true',
    ← Bool.not_eq_true, ← imp_iff_not_or]
  refine ⟨fun ⟨⟨⟨hmode, hpath⟩, hutf8⟩, hsize⟩ => ⟨⟨hmode, hpath, hutf8⟩, ?_⟩, fun ⟨⟨hmode, hpath, hutf8⟩, hsize⟩ =>
    ⟨⟨⟨hmode, hpath⟩, hutf8⟩, ?_⟩⟩
  · rwa [hasSize_eq_carriesSize c hmode] at hsize
  · rwa [hasSize_eq_carriesSize c hmode]

/-- The bytes of the size group, where the mode carries one (R232). -/
def sizeGroupBytes (c : Params) (f : FileTransfer) : Bytes :=
  if carriesSize c f.mode then
    f.fsizeBytes :: (bytesOf f.sizeUncompressed.toNat f.fsizeBytes.toNat ++
      bytesOf f.sizeCompressed.toNat f.fsizeBytes.toNat)
  else []

/-- The method byte, where the mode carries one (R232). -/
def methodBytes (c : Params) (f : FileTransfer) : Bytes :=
  if carriesMethod c f.mode then [nibbles f.compression f.encryption] else []

theorem fileTransferTail_eq (f : FileTransfer) :
    fileTransferTail c f = bytesOf f.path.length 2 ++ (f.path ++ (methodBytes c f ++ sizeGroupBytes c f)) := by
  simp only [fileTransferTail, methodBytes, sizeGroupBytes, List.append_assoc]

theorem writeSizes_appends {f : FileTransfer} (h : wfFileTransfer c f = true) :
    (writeSizes c f snk).Appends c (sizeGroupBytes c f) snk := by
  obtain ⟨⟨hmode, -, -⟩, hsize⟩ := (wfFileTransfer_iff_headOk f).mp h
  rw [writeSizes, sizeGroupBytes, hasSize_eq_carriesSize c hmode]
  split
  · next hs =>
    obtain ⟨hu, hc⟩ := hsize hs
    exact requireWidth_appends (legalWidth_of_fits hu) <| writeByte_appends fun _ =>
      writeVar_appends hu fun _ => writeVar_appends_last hc
  · exact ok_appends

theorem writeMethod_appends {f : FileTransfer} (h : wfFileTransfer c f = true) :
    (writeMethod c f snk).Appends c (methodBytes c f ++ sizeGroupBytes c f) snk := by
  obtain ⟨⟨hmode, -, -⟩, -⟩ := (wfFileTransfer_iff_headOk f).mp h
  rw [writeMethod, methodBytes, hasMethod_eq_carriesMethod c hmode]
  split
  · rw [← pack_eq_nibbles]
    exact writeByte_appends fun _ => writeSizes_appends _ h
  · exact writeSizes_appends snk h

theorem writeFileTransfer_appends {f : FileTransfer} (h : wfFileTransfer c f = true) :
    (writeFileTransfer c f snk).Appends c (f.mode :: fileTransferTail c f) snk := by
  obtain ⟨⟨hmode, hpath, hutf8⟩, -⟩ := (wfFileTransfer_iff_headOk f).mp h
  have hlen : f.path.length = (BitVec.ofNat 16 f.path.length).toNat := by
    rw [BitVec.toNat_ofNat]
    omega
  rw [fileTransferTail_eq, hlen]
  exact requireOk_appends hmode <| writeByte_appends fun _ => requireOk_appends (by simpa using hpath) <|
    requireOk_appends hutf8 <| writeU16_appends fun _ => snkWrite_appends fun _ => writeMethod_appends _ h

end

/-- A well-formed message that meets no unsupported shape is appended as its format gives it (R178). -/
theorem encodeMessage_appends {c : Params} {m : Message} (hwf : wfMessage c m = true) (hreach : ¬ meetsUnsupported c m)
    (htables : tablesOk c m) (snk : Bytes) : (encodeMessage c m snk).Appends c (wire c m) snk := by
  cases m with
  | readDidReq did | writeDidRsp did => exact writeByte_appends fun _ => writeDid_appends _ did
  | readDidRsp did data | writeDidReq did data => exact writeByte_appends fun _ => writeDidData_appends _ did data
  | readDtcReq sub | readDtcRsp sub => exact writeByte_appends fun _ => writeDtc_appends _ htables hwf hreach
  | requestDownloadReq f =>
    simp only [wfMessage, Bool.and_eq_true] at hwf
    exact writeByte_appends fun _ => writeDownload_appends _ hwf.1 hwf.2
  | requestDownloadRsp w v => exact writeByte_appends fun _ => writeBlockSize_appends _ hwf
  | fileTransferReq f | fileTransferRsp f => exact writeByte_appends fun _ => writeFileTransfer_appends _ hwf
  | transferDataReq seq data => exact writeByte_appends fun _ => writeByte_appends fun _ => snkWrite_appends_last
  | transferDataRsp seq => exact writeByte_appends fun _ => writeByte_appends fun _ => ok_appends
  | transferExitReq data | transferExitRsp data => exact writeByte_appends fun _ => snkWrite_appends_last
  | negativeResponse faultedSid code =>
    exact writeByte_appends fun _ => writeByte_appends fun _ => writeByte_appends fun _ => ok_appends
  | raw bytes => exact snkWrite_appends_last

/-- An ENCODE whose writes succeed. -/
theorem step_encode_ok {s : State} {m : Message} {rest : List HostMove} {out : Bytes}
    (h : s.host = .encode m :: rest) (hok : encodeMessage s.params m s.snk = .ok out) :
    step s = .next (finishEncode out (beginMessage .encode m (popMove rest s))) := by
  rw [step_encode s m rest h]
  simp [messageCommand, hok, endEncode]

/-- The room of the statements is the capacity of the sink with the bytes appended. -/
theorem hasRoom_iff (s : State) (bs : Bytes) : hasRoom s bs.length ↔ WithinCap s.params (s.snk ++ bs) := by
  simp [hasRoom, WithinCap]

/-- Settles O45: the writes append the bytes of the format where they fit, and raise Io where they do not. -/
theorem encodePastCapacityIsIo : Obligations.EncodePastCapacityIsIo := by
  intro s m rest h hwf hreach htables
  obtain ⟨hfit, hover⟩ := encodeMessage_appends ((wfMessage_iff s.params m).mpr hwf) hreach htables s.snk
  rw [hasRoom_iff]
  refine ⟨fun hne hpast => ?_, fun hroom => ?_⟩
  · obtain ⟨out, hfail⟩ := hover hne hpast
    exact ⟨_, _, step_encode_fail h hfail, rfl, rfl, rfl, rfl⟩
  · exact ⟨_, step_encode_ok h (hfit hroom), rfl, rfl⟩

end Sys2Proof.Machine
end

section
/-! DECODE of the bytes ENCODE writes: every well-formed message comes back as its Norm (R64, R185, R189). -/

namespace Sys2Proof.Machine

open Stated

/-! ### The layouts -/

/-- SrcRead of all that is there. -/
theorem srcRead_all {α : Type} (bs : Bytes) (k : Bytes → Bytes → ReadResult α) : srcRead bs.length bs k = k bs [] := by
  simpa using srcRead_append bs.length bs [] k rfl

theorem decodeDid_bytesOf (make : Half → Message) (did : Half) :
    decodeDid make (bytesOf did.toNat 2).length (bytesOf did.toNat 2) = .ok (make did) [] := by
  rw [bytesOf_length, decodeDid, checkExact_self, ← List.append_nil (bytesOf did.toNat 2), readU16_bytesOf]

section
variable {c : Params} (hc : c.maxAlloc = none)
include hc

theorem decodeDidData_bytesOf (make : Half → Bytes → Message) (did : Half) (data : Bytes) :
    decodeDidData make c (bytesOf did.toNat 2 ++ data).length (bytesOf did.toNat 2 ++ data) =
      .ok (make did data) [] := by
  rw [List.length_append, bytesOf_length, decodeDidData, checkMin_le _ _ _ _ (Nat.le_add_right 2 _), readU16_bytesOf,
    Nat.add_sub_cancel_left, readTrailing_unlimited _ _ _ _ hc, srcRead_all]

theorem decodeTransferExit_all (make : Bytes → Message) (data : Bytes) :
    decodeTransferExit make c data.length data = .ok (make data) [] := by
  rw [decodeTransferExit, checkMin_zero, readTrailing_unlimited _ _ _ _ hc, srcRead_all]

theorem decodeTransferDataReq_cons (seq : Byte) (data : Bytes) :
    decodeTransferDataReq c (seq :: data).length (seq :: data) = .ok (.transferDataReq seq data) [] := by
  rw [List.length_cons, decodeTransferDataReq, checkMin_le _ _ _ _ (Nat.le_add_left 1 _), readByte_cons,
    Nat.add_sub_cancel, readTrailing_unlimited _ _ _ _ hc, srcRead_all]

theorem decodeRaw_all (sid : Byte) (data : Bytes) : decodeRaw sid c data.length data = .ok (.raw (sid :: data)) [] := by
  rw [decodeRaw, readTrailing_unlimited _ _ _ _ hc, srcRead_all]

end

/-- The engine's value of all its bytes (R213). -/
theorem decodeDtc_valueBytes {table : Entries} {v : Val} (make : Val → Message) (htable : tableOk table = true)
    (h : hasShape (.union table) v = true) (hmeets : meetsNoUnsupported (.union table) v = true) :
    decodeDtc table make (valueBytes v).length (valueBytes v) = .ok (make v) [] := by
  simpa using decodeDtc_append make [] (engineDecode_valueBytes htable h hmeets)

theorem decodeRequestDownloadReq_downloadBytes (c : Params) {f : Download}
    (ha : fits f.addrBytes.toNat f.address = true) (hs : fits f.sizeBytes.toNat f.size = true) :
    decodeRequestDownloadReq c (downloadBytes f).length (downloadBytes f) = .ok (.requestDownloadReq f) [] := by
  have hlen : (downloadBytes f).length = 2 + f.addrBytes.toNat + f.sizeBytes.toNat := by
    simp only [downloadBytes, List.length_cons, List.length_append, bytesOf_length]
    omega
  rw [hlen, downloadBytes, decodeRequestDownloadReq, checkMin_le _ _ _ _ (by omega), readByte_cons, readByte_cons,
    split_nibbles, split_nibbles, checkWidth_legal _ _ _ (legalWidth_of_fits ha),
    checkWidth_legal _ _ _ (legalWidth_of_fits hs), checkExact_self, readVar_bytesOf ha,
    ← List.append_nil (bytesOf f.size.toNat _), readVar_bytesOf hs]

/-- The low nibble ENCODE writes is 0, which every setting accepts (R222, R223). -/
theorem decodeRequestDownloadRsp_bytesOf (c : Params) {w : Nibble} {v : Word} (h : fits w.toNat v = true) :
    decodeRequestDownloadRsp c (nibbles w 0 :: bytesOf v.toNat w.toNat).length
      (nibbles w 0 :: bytesOf v.toNat w.toNat) = .ok (.requestDownloadRsp w v) [] := by
  rw [List.length_cons, bytesOf_length, Nat.add_comm, decodeRequestDownloadRsp, checkMin_le _ _ _ _ (by omega),
    readByte_cons, split_nibbles, lowNibbleRule, if_neg (by simp), checkWidth_legal _ _ _ (legalWidth_of_fits h),
    checkExact_self, ← List.append_nil (bytesOf v.toNat _), readVar_bytesOf h]

/-! #### RequestFileTransfer -/

/-- What has been read of a RequestFileTransfer before the size group: the fields of a group the mode does not carry
are 0 (R29, R237). -/
def headRead (c : Params) (f : FileTransfer) : FileTransfer :=
  { normalFile c f with fsizeBytes := 0, sizeUncompressed := 0, sizeCompressed := 0 }

theorem readMethod_methodBytes {c : Params} {f : FileTransfer} (hmode : legalMode f.mode = true) (more : Bytes)
    (k : FileTransfer → Bytes → ReadResult Message) :
    readMethod c { fileTransferDefault with mode := f.mode, path := f.path } (methodBytes c f ++ more) k =
      k (headRead c f) more := by
  simp only [readMethod, methodBytes, headRead, normalFile, hasMethod_eq_carriesMethod c hmode]
  split
  · rw [List.singleton_append, readByte_cons, split_nibbles]
    rfl
  · rfl

theorem readSizes_sizeGroupBytes {c : Params} {f : FileTransfer} {l n : Nat} (h : wfFileTransfer c f = true)
    (hl : carriesSize c f.mode = true → l = n + 2 * f.fsizeBytes.toNat)
    (k : FileTransfer → Bytes → ReadResult Message) :
    readSizes c l n (headRead c f) (sizeGroupBytes c f) k = k (normalFile c f) [] := by
  obtain ⟨⟨hmode, -, -⟩, hsize⟩ := (wfFileTransfer_iff_headOk f).mp h
  rw [readSizes, show (headRead c f).mode = f.mode from rfl, hasSize_eq_carriesSize c hmode, sizeGroupBytes]
  split
  · next hs =>
    obtain ⟨hu, hcompressed⟩ := hsize hs
    rw [readByte_cons, checkWidth_legal _ _ _ (legalWidth_of_fits hu), hl hs, checkExact_self, readVar_bytesOf hu,
      ← List.append_nil (bytesOf f.sizeCompressed.toNat _), readVar_bytesOf hcompressed]
    simp only [headRead, normalFile, hs, if_true]
  · next hs => simp only [headRead, normalFile, hs, Bool.false_eq_true, if_false]

/-- The length of a RequestFileTransfer payload: the fixed part, and the two sizes where the mode carries them. -/
theorem fileTransferTail_length (c : Params) (f : FileTransfer) (hmode : legalMode f.mode = true) :
    (fileTransferTail c f).length + 1 =
      fixedPart c f.mode f.path.length + (if carriesSize c f.mode then 2 * f.fsizeBytes.toNat else 0) := by
  simp only [fileTransferTail_eq, fixedPart_eq c hmode, methodBytes, sizeGroupBytes, List.length_append, bytesOf_length]
  split_ifs <;> simp only [List.length_cons, List.length_nil, List.length_append, bytesOf_length] <;> omega

theorem decodeFileTransfer_tail (make : FileTransfer → Message) {c : Params} {f : FileTransfer}
    (h : wfFileTransfer c f = true) :
    decodeFileTransfer make c (f.mode :: fileTransferTail c f).length (f.mode :: fileTransferTail c f) =
      .ok (make (normalFile c f)) [] := by
  obtain ⟨⟨hmode, hpath, hutf8⟩, -⟩ := (wfFileTransfer_iff_headOk f).mp h
  have hlen : (BitVec.ofNat 16 f.path.length).toNat = f.path.length := by
    rw [BitVec.toNat_ofNat]
    omega
  rw [List.length_cons, fileTransferTail_length c f hmode, fileTransferTail_eq, decodeFileTransfer,
    checkMin_le _ _ _ _ (by unfold fixedPart; omega), readByte_cons, checkMode, if_pos hmode, ← hlen, readU16_bytesOf,
    hlen, checkFixedPart_accepts hmode (by split <;> omega), srcRead_append _ _ _ _ rfl, checkUtf8, if_pos hutf8,
    readMethod_methodBytes hmode, readSizes_sizeGroupBytes h fun hs => by rw [if_pos hs]]

/-! ### Every kind -/

/-- A request table as R211 fixes it is well-formed (R132). -/
theorem tableOk_of_reqTableOk {table : Entries} (h : reqTableOk table = true) : tableOk table = true := by
  simp only [reqTableOk, Bool.and_eq_true] at h
  obtain ⟨⟨htable, -⟩, -⟩ := h
  exact htable

/-- The bytes of a message that DECODE reads as its own kind are a SID and a payload that decodes to its Norm, every
byte used (R185). -/
theorem decodePayload_wire {c : Params} {m : Message} (hc : supported c = true) (hwf : wfMessage c m = true)
    (henc : encodable c m = true) (hback : decodesBack m) :
    ∃ sid payload, wire c m = sid :: payload ∧
      decodePayload c payload.length (instrOf sid payload) = .ok (normal c m) [] := by
  obtain ⟨hreq, hrsp⟩ := tables_of_supported hc
  have halloc := maxAlloc_of_supported hc
  have hkind := decodePayload_instrOf c
  cases m with
  | readDidReq did => exact ⟨_, _, rfl, (hkind _ _ _).trans (decodeDid_bytesOf .readDidReq did)⟩
  | readDidRsp did data => exact ⟨_, _, rfl, (hkind _ _ _).trans (decodeDidData_bytesOf halloc .readDidRsp did data)⟩
  | writeDidReq did data => exact ⟨_, _, rfl, (hkind _ _ _).trans (decodeDidData_bytesOf halloc .writeDidReq did data)⟩
  | writeDidRsp did => exact ⟨_, _, rfl, (hkind _ _ _).trans (decodeDid_bytesOf .writeDidRsp did)⟩
  | readDtcReq sub =>
    refine ⟨_, _, rfl, (hkind _ _ _).trans ((if_pos hreq).trans ?_)⟩
    exact decodeDtc_valueBytes .readDtcReq (tableOk_of_reqTableOk hreq) hwf henc
  | readDtcRsp sub =>
    refine ⟨_, _, rfl, (hkind _ _ _).trans ((if_pos hrsp).trans ?_)⟩
    exact decodeDtc_valueBytes .readDtcRsp hrsp hwf henc
  | requestDownloadReq f =>
    simp only [wfMessage, Bool.and_eq_true] at hwf
    exact ⟨_, _, rfl, (hkind _ _ _).trans (decodeRequestDownloadReq_downloadBytes c hwf.1 hwf.2)⟩
  | requestDownloadRsp w v => exact ⟨_, _, rfl, (hkind _ _ _).trans (decodeRequestDownloadRsp_bytesOf c hwf)⟩
  | fileTransferReq f => exact ⟨_, _, rfl, (hkind _ _ _).trans (decodeFileTransfer_tail .fileTransferReq hwf)⟩
  | fileTransferRsp f => exact ⟨_, _, rfl, (hkind _ _ _).trans (decodeFileTransfer_tail .fileTransferRsp hwf)⟩
  | transferDataReq seq data => exact ⟨_, _, rfl, (hkind _ _ _).trans (decodeTransferDataReq_cons halloc seq data)⟩
  | transferDataRsp seq => exact ⟨_, _, rfl, (hkind _ _ _).trans rfl⟩
  | transferExitReq data => exact ⟨_, _, rfl, (hkind _ _ _).trans (decodeTransferExit_all halloc .transferExitReq data)⟩
  | transferExitRsp data => exact ⟨_, _, rfl, (hkind _ _ _).trans (decodeTransferExit_all halloc .transferExitRsp data)⟩
  | negativeResponse faultedSid code => exact ⟨_, _, rfl, (hkind _ _ _).trans rfl⟩
  | raw bytes =>
    obtain ⟨sid, more, rfl, hsid⟩ := hback
    refine ⟨sid, more, rfl, ?_⟩
    rw [hkind, Laws.SidSelectsKind.unmapped_sid_is_raw sid hsid]
    exact decodeRaw_all halloc sid more

/-- `MsgLen` is the number of bytes of the format (R106). -/
theorem msgLen_eq_wire_length {c : Params} {m : Message} (hwf : wfMessage c m = true)
    (hreach : ¬ meetsUnsupported c m) : msgLen c m = (wire c m).length := by
  have hfile : ∀ f, wfFileTransfer c f = true → fileTransferLen c f = (f.mode :: fileTransferTail c f).length := by
    intro f hf
    obtain ⟨⟨hmode, -, -⟩, -⟩ := (wfFileTransfer_iff_headOk f).mp hf
    rw [List.length_cons, fileTransferTail_length c f hmode, fileTransferLen, fixedPart, hasSize_eq_carriesSize c hmode]
    split_ifs <;> omega
  cases m with
  | readDtcReq sub | readDtcRsp sub =>
    simp only [msgLen, elen, wire, List.length_cons, (encodeShape_value _ sub hwf hreach).2]
    omega
  | fileTransferReq f | fileTransferRsp f =>
    simp only [msgLen, elen, wire, hfile f hwf, List.length_cons]
    omega
  | raw bytes => rfl
  | _ => simp only [msgLen, elen, wire, List.length_cons, List.length_append, List.length_nil, bytesOf_length] <;> omega

/-! ### The two commands -/

/-- DECODE of the bytes of a message, which stand at the source's place, returns its Norm and leaves what follows. -/
theorem step_decode_wire {s : State} {plen : Len} {rest : List HostMove} {m : Message} {tail : Bytes}
    (h : s.host = .decode plen :: rest) (hc : supported s.params = true) (hwf : wfMessage s.params m = true)
    (henc : encodable s.params m = true) (hback : decodesBack m) (hplen : plen.toNat = (wire s.params m).length)
    (hrem : s.src.remaining = wire s.params m ++ tail) :
    ∃ u, step s = .next u ∧ u.status = .ok ∧ u.msg = some (normal s.params m) ∧ u.params = s.params ∧ u.host = rest ∧
      u.src.remaining = tail := by
  obtain ⟨sid, payload, hwire, hdecode⟩ := decodePayload_wire hc hwf henc hback
  have hz : plen ≠ 0 := by
    rintro rfl
    simp [hwire] at hplen
  have hw : s.src.remaining.take plen.toNat = sid :: payload := by
    rw [hrem, hplen, List.take_left, hwire]
  have hl : (plen - 1).toNat = payload.length := by
    have := len_sub_one hz
    rw [hwire, List.length_cons] at hplen
    omega
  obtain ⟨buf, hrun⟩ := step_decode_run h hz hw
  rw [hl, hdecode] at hrun
  obtain ⟨hparams, -, -, hhost⟩ := step_decode_frame h hrun
  obtain ⟨-, -, -, -, hleft, -⟩ := decodeConsumesExactly s _ plen rest h hrun rfl
  refine ⟨_, hrun, rfl, rfl, hparams, hhost, hleft.trans ?_⟩
  change s.src.remaining.drop plen.toNat = tail
  rw [hrem, hplen, List.drop_left]

/-- A DTC value that can be decoded back reaches no unsupported shape (R128). -/
theorem not_meetsUnsupported {c : Params} {m : Message} (h : encodable c m = true) : ¬ meetsUnsupported c m := by
  cases m with
  | readDtcReq sub | readDtcRsp sub => exact not_reachesUnsupported h
  | _ => exact id

theorem tablesOk_of_supported {c : Params} (h : supported c = true) (m : Message) : tablesOk c m := by
  obtain ⟨hreq, hrsp⟩ := tables_of_supported h
  cases m with
  | readDtcReq sub => exact hreq
  | readDtcRsp sub => exact hrsp
  | _ => trivial

/-- ENCODE of a well-formed message into an unbounded sink appends its bytes (R178). -/
theorem step_encode_wire {s : State} {m : Message} {rest : List HostMove} (h : s.host = .encode m :: rest)
    (hcap : s.params.snkCap = none) (hc : supported s.params = true) (hwf : wfMessage s.params m = true)
    (henc : encodable s.params m = true) :
    ∃ t, step s = .next t ∧ t.params = s.params ∧ t.host = rest ∧ t.snk = s.snk ++ wire s.params m :=
  ⟨_, step_encode_ok h <| (encodeMessage_appends hwf (not_meetsUnsupported henc) (tablesOk_of_supported hc m) s.snk).1
    (by simp [WithinCap, hcap]), rfl, rfl, rfl⟩

/-- Settles O54: each ENCODE appends the bytes of its message, and each DECODE takes those bytes and leaves the rest. -/
theorem consecutiveMessages : Obligations.ConsecutiveMessages := by
  intro s t t' m m' rest h hsnk hcap hc hmessages ht ht'
  obtain ⟨hwf, henc, hback, hlen⟩ := hmessages m (.inl rfl)
  obtain ⟨hwf', henc', hback', hlen'⟩ := hmessages m' (.inr rfl)
  rw [← wfMessage_iff] at hwf hwf'
  rw [msgLen_eq_wire_length hwf (not_meetsUnsupported henc)] at hlen ⊢
  rw [msgLen_eq_wire_length hwf' (not_meetsUnsupported henc')] at hlen' ⊢
  obtain ⟨t₁, ht₁, hparams₁, hhost₁, hsnk₁⟩ := step_encode_wire h hcap hc hwf henc
  cases ht₁.symm.trans ht
  rw [← hparams₁] at hcap hc hwf' henc'
  obtain ⟨t₂, ht₂, hparams₂, -, hsnk₂⟩ := step_encode_wire hhost₁ hcap hc hwf' henc'
  cases ht₂.symm.trans ht'
  have hparams : t'.params = s.params := hparams₂.trans hparams₁
  have hsink : t'.snk = wire t'.params m ++ wire t'.params m' := by
    rw [hsnk₂, hsnk₁, hsnk, List.nil_append, hparams₂, hparams₁]
  rw [← hparams₂] at hc hwf' henc'
  rw [← hparams] at hwf henc hlen hlen' ⊢
  obtain ⟨u, hu, -, hmsg, hparamsU, hhostU, hremU⟩ := step_decode_wire
    (s := { t' with
      src := { bytes := t'.snk, pos := 0 }
      host := [.decode (BitVec.ofNat 32 (wire t'.params m).length),
        .decode (BitVec.ofNat 32 (wire t'.params m').length)] })
    rfl hc hwf henc hback (Nat.mod_eq_of_lt hlen) hsink
  change u.params = t'.params at hparamsU
  change u.src.remaining = wire t'.params m' at hremU
  rw [← hparamsU] at hc hwf' henc' hlen' hremU
  obtain ⟨u', hu', hok', hmsg', -, -, hremU'⟩ := step_decode_wire hhostU hc hwf' henc' hback'
    (by rw [← hparamsU]; exact Nat.mod_eq_of_lt hlen') (hremU.trans (List.append_nil _).symm)
  exact ⟨u, u', hu, hu', hmsg, hparamsU ▸ hmsg', hok', hremU'⟩

end Sys2Proof.Machine
end

section
/-! The decoder of instructions and its encoder are inverse to each other (R80, R82, R103, R109, R110). -/

namespace Sys2Proof.Machine

/-! ### SIDs and kinds -/

/-- The SID of a typed kind selects that kind (R82, R110). -/
theorem kindOfSid_of_sidOf {k : Kind} {sid : Byte} (h : sidOf k = some sid) : kindOfSid sid = k := by
  cases k <;> cases h <;> decide

/-- A SID that selects Raw is none of the mapped ones, and every unmapped SID selects it (R82, R103). -/
theorem kindOfSid_eq_raw_iff (sid : Byte) : kindOfSid sid = .raw ↔ sid ∉ mappedSids :=
  ⟨unmapped_of_kindOfSid_raw sid, Laws.SidSelectsKind.unmapped_sid_is_raw sid⟩

/-- Settles O4: the SID that selects a typed kind is that kind's own, and that SID selects the kind. -/
theorem sidsAndKindsCorrespond : Obligations.SidsAndKindsCorrespond := by
  refine ⟨fun sid k hk => ⟨fun h => ?_, kindOfSid_of_sidOf⟩, kindOfSid_eq_raw_iff, rfl, by decide⟩
  subst h
  exact (sidOf_kindOfSid sid).resolve_left hk

/-! ### Instructions and byte strings -/

/-- The SID of a well-formed instruction selects the kind of its row (R82, R109). -/
theorem kindOfSid_sid {i : Instr} (h : i.wf = true) : kindOfSid i.sid = i.kind := by
  cases i with
  | raw sid payload => exact (Laws.SidSelectsKind.raw sid payload h).1
  | _ => exact kindOfSid_of_sidOf rfl

theorem refineDtcReq_of_not_reportSupported {payload : Bytes} (h : startsReportSupported payload = false) :
    refineDtcReq payload = .readDtcReq payload := by
  cases payload with
  | nil => rfl
  | cons index rest => exact if_neg (by simpa [startsReportSupported] using h)

/-- A first byte is a legal mode unless it is none of the five sub-opcodes (R95). -/
theorem startsLegalMode_eq_false_iff (mode : Byte) (rest : Bytes) :
    startsLegalMode (mode :: rest) = false ↔ mode ≠ 1 ∧ mode ≠ 2 ∧ mode ≠ 3 ∧ mode ≠ 4 ∧ mode ≠ 5 := by
  rw [startsLegalMode, decide_eq_false_iff_not]
  bv_omega

theorem refineFileTransferReq_of_not_legalMode {payload : Bytes} (h : startsLegalMode payload = false) :
    refineFileTransferReq payload = .fileTransferReq payload := by
  cases payload with
  | nil => rfl
  | cons mode rest =>
    obtain ⟨h1, h2, h3, h4, h5⟩ := (startsLegalMode_eq_false_iff mode rest).mp h
    rw [refineFileTransferReq, if_neg h1, if_neg h2, if_neg h3, if_neg h4, if_neg h5]

theorem refineFileTransferRsp_of_not_legalMode {payload : Bytes} (h : startsLegalMode payload = false) :
    refineFileTransferRsp payload = .fileTransferRsp payload := by
  cases payload with
  | nil => rfl
  | cons mode rest =>
    obtain ⟨h1, h2, h3, h4, h5⟩ := (startsLegalMode_eq_false_iff mode rest).mp h
    rw [refineFileTransferRsp, if_neg h1, if_neg h2, if_neg h3, if_neg h4, if_neg h5]

/-- The table gives a well-formed instruction back for its own SID and payload (R109). -/
theorem instrOf_sid_payload {i : Instr} (h : i.wf = true) : instrOf i.sid i.payload = i := by
  rw [instrOf, kindOfSid_sid h]
  cases i with
  | readDtcReq payload => exact refineDtcReq_of_not_reportSupported (payload := payload) (by simpa [Instr.wf] using h)
  | fileTransferReq payload =>
    exact refineFileTransferReq_of_not_legalMode (payload := payload) (by simpa [Instr.wf] using h)
  | fileTransferRsp payload =>
    exact refineFileTransferRsp_of_not_legalMode (payload := payload) (by simpa [Instr.wf] using h)
  | _ => rfl

/-- Settles O2: the decoder looks up the SID and the payload the encoder writes. -/
theorem decodeInvertsEncode : Obligations.DecodeInvertsEncode := fun _ h =>
  congrArg Except.ok (instrOf_sid_payload h)

theorem refineDtcReq_wf (payload : Bytes) : (refineDtcReq payload).wf = true := by
  unfold refineDtcReq
  split
  · rfl
  · split_ifs with h
    · rfl
    · simpa [Instr.wf, startsReportSupported] using h

theorem refineFileTransferReq_wf (payload : Bytes) : (refineFileTransferReq payload).wf = true := by
  unfold refineFileTransferReq
  split
  · rfl
  · split_ifs with h1 h2 h3 h4 h5
    case neg => simp only [Instr.wf, (startsLegalMode_eq_false_iff _ _).mpr ⟨h1, h2, h3, h4, h5⟩, Bool.not_false]
    all_goals rfl

theorem refineFileTransferRsp_wf (payload : Bytes) : (refineFileTransferRsp payload).wf = true := by
  unfold refineFileTransferRsp
  split
  · rfl
  · split_ifs with h1 h2 h3 h4 h5
    case neg => simp only [Instr.wf, (startsLegalMode_eq_false_iff _ _).mpr ⟨h1, h2, h3, h4, h5⟩, Bool.not_false]
    all_goals rfl

/-- The table gives the most specific row (R109). -/
theorem instrOf_wf (sid : Byte) (payload : Bytes) : (instrOf sid payload).wf = true := by
  cases h : kindOfSid sid with
  | readDtcReq => simpa [instrOf, h] using refineDtcReq_wf payload
  | fileTransferReq => simpa [instrOf, h] using refineFileTransferReq_wf payload
  | fileTransferRsp => simpa [instrOf, h] using refineFileTransferRsp_wf payload
  | raw => simpa [instrOf, h, Instr.wf] using (kindOfSid_eq_raw_iff sid).mp h
  | _ => simp [instrOf, h, Instr.wf]

/-- Settles O3: the instruction of the string is well-formed and keeps every byte, and an instruction with the same bytes
is what they decode to. -/
theorem everyStringIsOneInstruction : Obligations.EveryStringIsOneInstruction := by
  refine fun sid more => ⟨instrOf sid more, rfl, instrOf_wf sid more, ?_, fun j hj hbytes => ?_⟩
  · rw [encode, instrOf_sid, instrOf_payload]
  · have hdecode := decodeInvertsEncode j hj
    rw [hbytes] at hdecode
    exact (Except.ok.inj hdecode).symm

/-- Settles O1: each word is what its instruction encodes to. -/
theorem tableWordsDecode : Obligations.TableWordsDecode :=
  ⟨decodeInvertsEncode (.readDidReq [0xF1, 0x90]) rfl,
    decodeInvertsEncode (.readDtcReqReportSupported []) rfl,
    decodeInvertsEncode (.fileTransferReqDelete [0x00, 0x01, 0x78, 0x00]) rfl,
    decodeInvertsEncode (.fileTransferReq [0x06, 0x00, 0x00]) rfl,
    decodeInvertsEncode (.negativeResponse [0x34, 0x10]) rfl,
    decodeInvertsEncode (.raw 0x3F [0x34, 0x10]) rfl⟩

end Sys2Proof.Machine
end

section
/-! The commands that read a message: what ENCODE appends, what LENGTH returns, and that DECODE gives the message back
(R106, R178, R184, R185). -/

namespace Sys2Proof.Machine

open Stated

/-- `Norm` sets to 0 the fields of the groups that the table of R232 does not give the mode (R237). -/
theorem normFileTransfer_eq_normalFile (c : Params) {f : FileTransfer} (hmode : legalMode f.mode = true) :
    normFileTransfer c f = normalFile c f := by
  simp only [normFileTransfer, normalFile, hasMethod_eq_carriesMethod c hmode, hasSize_eq_carriesSize c hmode]

theorem norm_eq_normal {c : Params} {m : Message} (hwf : wfMessage c m = true) : norm c m = normal c m := by
  cases m with
  | fileTransferReq f | fileTransferRsp f =>
    obtain ⟨⟨hmode, -, -⟩, -⟩ := (wfFileTransfer_iff_headOk f).mp hwf
    exact congrArg _ (normFileTransfer_eq_normalFile c hmode)
  | _ => rfl

/-- Settles O42: the writes of the message's row append the bytes of its format where they fit. -/
theorem encodeAppendsTheFormat : Obligations.EncodeAppendsTheFormat := by
  intro s m hcmd hmsg hwf hreach htables hroom
  have happends := encodeMessage_appends ((wfMessage_iff s.params m).mpr hwf) hreach htables s.snk
  rw [exec_message .encode m s (by decide) hcmd hmsg, messageCommand, happends.1 ((hasRoom_iff s _).mp hroom)]
  rfl

/-- Settles O47: the number is `MsgLen`, which counts the bytes of the format. -/
theorem lengthIsTheBytesEncodeAppends : Obligations.LengthIsTheBytesEncodeAppends := fun s m hcmd hmsg =>
  ⟨msgLen s.params m, exec_message .length m s (by decide) hcmd hmsg, fun hwf hreach =>
    msgLen_eq_wire_length ((wfMessage_iff s.params m).mpr hwf) hreach⟩

/-- Settles O51: ENCODE appends the bytes of the format, and DECODE reads them back as the Norm. -/
theorem encodeThenDecode : Obligations.EncodeThenDecode := by
  intro s m tail rest h hwf henc hc hcap hback hlen
  rw [← wfMessage_iff] at hwf
  have hreach := not_meetsUnsupported henc
  rw [msgLen_eq_wire_length hwf hreach] at hlen ⊢
  obtain ⟨happend, -⟩ := encodeMessage_appends hwf hreach (tablesOk_of_supported hc m) s.snk
  have ht := step_encode_ok h (happend (by simp [WithinCap, hcap]))
  obtain ⟨u, hu, hok, hmsg, -⟩ := step_decode_wire
    (s := { finishEncode (s.snk ++ wire s.params m) (beginMessage .encode m (popMove rest s)) with
      src := { bytes := wire s.params m ++ tail, pos := 0 }
      host := [.decode (BitVec.ofNat 32 (wire s.params m).length)] })
    rfl hc hwf henc hback (Nat.mod_eq_of_lt hlen) rfl
  exact ⟨_, _, u, ht, rfl, rfl, rfl, rfl, hu, hok, hmsg, norm_eq_normal hwf⟩

end Sys2Proof.Machine
end

section
/-! Bytes that were read are the bytes of the value they gave: integers, fields, and the Codec Engine (R134, R151, R152,
R162). -/

namespace Sys2Proof.Machine

open Stated

/-! ### Integers and nibbles -/

/-- The sum of R151 is the integer of the fold. -/
theorem bigEndian_eq_be (bs : Bytes) : bigEndian bs = be bs := by
  induction bs with
  | nil => rfl
  | cons b bs ih =>
    rw [bigEndian, ih, ← List.singleton_append, be_append]
    simp [be]

/-- The last byte of a value is its least significant one (R152). -/
theorem bytesOf_succ_concat (v n : Nat) : bytesOf v (n + 1) = bytesOf (v / 256) n ++ [BitVec.ofNat 8 v] := by
  simp only [bytesOf, List.range_succ, List.map_append, List.map_cons, List.map_nil]
  congr 1
  · refine List.map_congr_left fun i hi => ?_
    have hlt := List.mem_range.mp hi
    rw [show n + 1 - 1 - i = (n - 1 - i) + 1 by omega, Nat.pow_succ', Nat.div_div_eq_div_mul]
  · simp

/-- The bytes of the integer of a byte string are that string (R152). -/
theorem bytesOf_be (bs : Bytes) : bytesOf (be bs) bs.length = bs := by
  induction bs using List.reverseRecOn with
  | nil => rfl
  | append_singleton bs b ih =>
    have hb : b.toNat < 256 := b.isLt
    have hhigh : (be bs * 256 + b.toNat) / 256 = be bs := by omega
    have hlow : BitVec.ofNat 8 (be bs * 256 + b.toNat) = b := by
      apply BitVec.eq_of_toNat_eq
      rw [BitVec.toNat_ofNat]
      omega
    rw [be_concat, List.length_append, List.length_singleton, bytesOf_succ_concat, hhigh, hlow, ih]

/-- The same through a word wide enough to hold the integer (R155, R161). -/
theorem bytesOf_ofNat_be {width : Nat} {bs : Bytes} (h : 256 ^ bs.length ≤ 2 ^ width) :
    bytesOf (BitVec.ofNat width (be bs)).toNat bs.length = bs := by
  rw [BitVec.toNat_ofNat, Nat.mod_eq_of_lt ((be_lt bs).trans_le h), bytesOf_be]

/-- A legal width is at most that of a word (R153). -/
theorem pow_le_of_legalWidth {w : Nat} (h : legalWidth w = true) : 256 ^ w ≤ 2 ^ 32 :=
  Nat.pow_le_pow_right (n := 256) (by decide) (legalWidth_le w h).2

/-- Bytes of a legal width are those of the word they give. -/
theorem bytesOf_word {bs : Bytes} (h : legalWidth bs.length = true) :
    bytesOf (BitVec.ofNat 32 (be bs)).toNat bs.length = bs :=
  bytesOf_ofNat_be (pow_le_of_legalWidth h)

/-- The word that bytes of a legal width give fits the width. -/
theorem fits_word {bs : Bytes} (h : legalWidth bs.length = true) : fits bs.length (BitVec.ofNat 32 (be bs)) = true := by
  simpa using fits_be_take bs.length bs h le_rfl

/-- Every byte is that of its two nibbles (R150). -/
theorem nibbles_split : ∀ b : Byte, nibbles (split b).1 (split b).2 = b := by decide

/-- The low nibble is the low four bits (R150). -/
theorem split_snd : ∀ b : Byte, (split b).2 = b.extractLsb' 0 4 := by decide

/-! ### Fields -/

section
variable {α : Type} {bs rest : Bytes} {v : α}

theorem srcRead_ok_iff_append {n : Nat} {k : Bytes → Bytes → ReadResult α} :
    srcRead n bs k = .ok v rest ↔ ∃ data more, data.length = n ∧ bs = data ++ more ∧ k data more = .ok v rest := by
  refine ⟨fun h => ?_, ?_⟩
  · obtain ⟨hn, hk⟩ := (srcRead_ok_iff n bs k v rest).mp h
    exact ⟨bs.take n, bs.drop n, List.length_take_of_le hn, (List.take_append_drop n bs).symm, hk⟩
  · rintro ⟨data, more, hlen, rfl, hk⟩
    rwa [srcRead_append n data more k hlen]

theorem readTrailing_ok {c : Params} {n : Nat} {k : Bytes → Bytes → ReadResult α}
    (h : readTrailing c n bs k = .ok v rest) : ∃ data more, bs = data ++ more ∧ k data more = .ok v rest := by
  obtain ⟨-, hn, hk⟩ := (readTrailing_ok_iff c n bs k v rest).mp h
  exact ⟨bs.take n, bs.drop n, (List.take_append_drop n bs).symm, hk⟩

theorem readU16_ok_iff_bytesOf {k : Half → Bytes → ReadResult α} :
    readU16 bs k = .ok v rest ↔ ∃ x more, bs = bytesOf x.toNat 2 ++ more ∧ k x more = .ok v rest := by
  refine ⟨fun h => ?_, ?_⟩
  · obtain ⟨data, more, hlen, rfl, hk⟩ := srcRead_ok_iff_append.mp h
    have hdata := bytesOf_ofNat_be (width := 16) (bs := data) (by rw [hlen]; decide)
    rw [hlen] at hdata
    exact ⟨_, more, by rw [hdata], hk⟩
  · rintro ⟨x, more, rfl, hk⟩
    rwa [readU16_bytesOf]

theorem readVar_ok_iff_bytesOf {w : Nat} {k : Word → Bytes → ReadResult α} :
    readVar w bs k = .ok v rest ↔
      ∃ x more, fits w x = true ∧ bs = bytesOf x.toNat w ++ more ∧ k x more = .ok v rest := by
  refine ⟨fun h => ?_, ?_⟩
  · obtain ⟨hw, h⟩ := (checkWidth_ok_iff w bs _ v rest).mp h
    obtain ⟨data, more, rfl, rfl, hk⟩ := srcRead_ok_iff_append.mp h
    exact ⟨_, more, fits_word hw, by rw [bytesOf_word hw], hk⟩
  · rintro ⟨x, more, hfits, rfl, hk⟩
    rwa [readVar_bytesOf hfits]

end

/-! ### The engine -/

/-- An integer is decoded from its own bytes (R123). -/
theorem decodeInt_bytes {n width : Nat} {make : BitVec width → Val} {buf rest : Bytes} {v : Val}
    (h : decodeInt n (fun k => make (BitVec.ofNat width k)) buf = .ok (v, rest)) (hwidth : 256 ^ n ≤ 2 ^ width) :
    ∃ x, v = make x ∧ buf = bytesOf x.toNat n ++ rest := by
  obtain ⟨hn, rfl, rfl⟩ := (decodeInt_ok_iff n _ buf v rest).mp h
  have hlen : (buf.take n).length = n := List.length_take_of_le hn
  have hbytes := bytesOf_ofNat_be (width := width) (bs := buf.take n) (by rwa [hlen])
  rw [hlen] at hbytes
  exact ⟨_, rfl, by rw [hbytes, List.take_append_drop]⟩

/-- A decoded sequence is encoded as its elements are, which are the bytes it was decoded from (R127). -/
theorem decodeSeq_encodes {element : Bytes → Except EngineFail (Val × Bytes)} {enc : Val → Except EngineFail Bytes}
    (helem : ∀ buf v rest, element buf = .ok (v, rest) → enc v = .ok (valueBytes v) ∧ buf = valueBytes v ++ rest) :
    ∀ fuel buf vs rest, decodeSeq element fuel buf = .ok (vs, rest) →
      encodeSeq enc vs = .ok (valuesBytes vs) ∧ buf = valuesBytes vs ++ rest := by
  intro fuel
  induction fuel with
  | zero =>
    intro buf vs rest h
    cases h
    exact ⟨rfl, rfl⟩
  | succ fuel ih =>
    intro buf vs rest h
    obtain ⟨-, rfl, rfl⟩ | ⟨v, mid, ws, hv, hws, rfl⟩ := (decodeSeq_succ_ok_iff element fuel buf vs rest).mp h
    · exact ⟨rfl, rfl⟩
    · obtain ⟨henc, rfl⟩ := helem buf v mid hv
      obtain ⟨hencs, rfl⟩ := ih mid ws rest hws
      exact ⟨(encodeSeq_cons_ok_iff _ _ _ _).mpr ⟨_, _, henc, hencs, rfl⟩, (List.append_assoc _ _ _).symm⟩

/-- A decoded value is encoded as its bytes, which are those it was decoded from; the same for the fields of a record and
for every variant (R134). -/
theorem decodeShape_encodes (shape : Shape) :
    ∀ buf v rest, decodeShape shape buf = .ok (v, rest) →
      encodeShape shape v = .ok (valueBytes v) ∧ buf = valueBytes v ++ rest := by
  induction shape using Shape.rec
    (motive_2 := fun entries =>
      (∀ buf vs rest, decodeFields entries buf = .ok (vs, rest) →
        encodeFields entries vs = .ok (valuesBytes vs) ∧ buf = valuesBytes vs ++ rest) ∧
      (∀ i buf v rest, decodeVariant entries i buf = .ok (v, rest) →
        encodeVariant entries i v = .ok (valueBytes v) ∧ buf = valueBytes v ++ rest)) with
  | u8 =>
    intro buf v rest h
    obtain ⟨x, rfl, hbuf⟩ := decodeInt_bytes (make := .u8) h (by decide)
    exact ⟨congrArg _ (bytesBe_eq_bytesOf _ _), hbuf⟩
  | u16 =>
    intro buf v rest h
    obtain ⟨x, rfl, hbuf⟩ := decodeInt_bytes (make := .u16) h (by decide)
    exact ⟨congrArg _ (bytesBe_eq_bytesOf _ _), hbuf⟩
  | u32 =>
    intro buf v rest h
    obtain ⟨x, rfl, hbuf⟩ := decodeInt_bytes (make := .u32) h (by decide)
    exact ⟨congrArg _ (bytesBe_eq_bytesOf _ _), hbuf⟩
  | unit =>
    intro buf v rest h
    cases h
    exact ⟨rfl, rfl⟩
  | record fields ih =>
    intro buf v rest h
    simp only [decodeShape] at h
    split at h
    · cases h
    · next vs rest' hvs =>
      cases h
      exact ih.1 buf vs rest hvs
  | union variants ih =>
    intro buf v rest h
    obtain ⟨index, more, w, rfl, hw, rfl⟩ := (decodeShape_union_ok_iff variants buf v rest).mp h
    obtain ⟨henc, rfl⟩ := ih.2 index.toNat more w rest hw
    exact ⟨(encodeShape_variant_ok_iff _ _ _ _).mpr ⟨_, henc, rfl⟩, rfl⟩
  | seq element ih =>
    intro buf v rest h
    simp only [decodeShape] at h
    split at h
    · cases h
    · next vs rest' hvs =>
      cases h
      exact decodeSeq_encodes ih _ buf vs rest hvs
  | unsupported what => intro buf v rest h; cases h
  | nil =>
    refine ⟨fun buf vs rest h => ?_, fun i buf v rest h => by cases h⟩
    cases h
    exact ⟨rfl, rfl⟩
  | cons name shape rest ihShape ihRest =>
    refine ⟨fun buf vs rest' h => ?_, fun i buf v rest' h => ?_⟩
    · obtain ⟨v, mid, ws, hv, hws, rfl⟩ := (decodeFields_cons_ok_iff name shape rest buf vs rest').mp h
      obtain ⟨henc, rfl⟩ := ihShape buf v mid hv
      obtain ⟨hencs, rfl⟩ := ihRest.1 mid ws rest' hws
      exact ⟨(encodeFields_cons_ok_iff _ _ _ _ _ _).mpr ⟨_, _, henc, hencs, rfl⟩, (List.append_assoc _ _ _).symm⟩
    · cases i with
      | zero => exact ihShape buf v rest' h
      | succ i => exact ihRest.2 i buf v rest' h

end Sys2Proof.Machine
end

section
/-! DECODE of each layout, whatever follows its bytes in the source: the message holds the fields, and only the registers
of a DECODE that succeeds change (R158, R200 to R243). -/

namespace Sys2Proof.Machine

open Stated

/-- Under DECODE an instruction whose decoder leaves what follows its bytes ends in the state the statements write out;
the DTC rows also stage BUF. -/
theorem exec_decode_append {i : Instr} {s : State} {bs rest : Bytes} {m : Message} (hcmd : s.cmd = some .decode)
    (hpayload : i.payload = bs ++ rest) (hkind : ¬ (i.kind = .readDtcReq ∨ i.kind = .readDtcRsp))
    (hdecode : decodePayload s.params s.l.toNat i = .ok m rest) : exec i s = .next (decoded m bs.length s) := by
  rw [exec_decode i s hcmd, hdecode, hpayload, if_neg hkind]
  exact endDecode_ok_append m bs rest s

/-- What a reader answers of all its bytes, it answers with any bytes behind them (R57). -/
theorem ReadResult.Extends.ok {α : Type} {more rest : Bytes} {r r' : ReadResult α} {v : α} (h : r.Extends more r')
    (hr : r = .ok v rest) : r' = .ok v (rest ++ more) := by
  subst hr
  exact h

/-! ### The DID layouts, TransferExit -/

/-- A 16-bit field of two bytes (R161). -/
theorem half_eq_append (high low : Byte) : BitVec.ofNat 16 (high.toNat * 256 + low.toNat) = high ++ low := by
  apply BitVec.eq_of_toNat_eq
  have hhigh : high.toNat < 256 := high.isLt
  have hlow : low.toNat < 256 := low.isLt
  rw [BitVec.toNat_append, BitVec.toNat_ofNat, ← Nat.shiftLeft_add_eq_or_of_lt low.isLt, Nat.shiftLeft_eq]
  omega

theorem decodeDid_cons (make : Half → Message) (high low : Byte) (rest : Bytes) :
    decodeDid make 2 (high :: low :: rest) = .ok (make (high ++ low)) rest := by
  rw [decodeDid, checkExact_self, readU16_cons, half_eq_append]

theorem decodeDidData_cons {c : Params} (make : Half → Bytes → Message) (high low : Byte) (data rest : Bytes)
    (halloc : allocates c data.length) :
    decodeDidData make c (2 + data.length) (high :: low :: (data ++ rest)) = .ok (make (high ++ low) data) rest := by
  rw [decodeDidData, checkMin_le _ _ _ _ (Nat.le_add_right 2 _), readU16_cons, half_eq_append,
    Nat.add_sub_cancel_left, readTrailing_within _ _ _ _ halloc, srcRead_append _ data rest _ rfl]

theorem decodeTransferExit_append {c : Params} (make : Bytes → Message) (data rest : Bytes)
    (halloc : allocates c data.length) :
    decodeTransferExit make c data.length (data ++ rest) = .ok (make data) rest := by
  rw [decodeTransferExit, checkMin_zero, readTrailing_within _ _ _ _ halloc, srcRead_append _ data rest _ rfl]

/-- Settles O13: both rows read the two bytes as one DID. -/
theorem didLayoutDecodes : Obligations.DidLayoutDecodes := by
  intro s high low rest hcmd hl
  have hdecode (make : Half → Message) :
      decodeDid make s.l.toNat (high :: low :: rest) = .ok (make (high ++ low)) rest := by
    rw [hl]
    exact decodeDid_cons make high low rest
  exact ⟨exec_decode_append (bs := [high, low]) hcmd rfl nofun (hdecode .readDidReq),
    exec_decode_append (bs := [high, low]) hcmd rfl nofun (hdecode .writeDidRsp)⟩

/-- Settles O14: both rows read the DID, and the declared bytes that remain in one piece. -/
theorem didDataLayoutDecodes : Obligations.DidDataLayoutDecodes := by
  intro s high low data rest hcmd hl halloc
  have hdecode (make : Half → Bytes → Message) :
      decodeDidData make s.params s.l.toNat (high :: low :: (data ++ rest)) = .ok (make (high ++ low) data) rest := by
    rw [hl]
    exact decodeDidData_cons make high low data rest halloc
  rw [Nat.add_comm 2 data.length]
  exact ⟨exec_decode_append (bs := high :: low :: data) hcmd rfl nofun (hdecode .readDidRsp),
    exec_decode_append (bs := high :: low :: data) hcmd rfl nofun (hdecode .writeDidReq)⟩

/-- Settles O16: both rows read the declared bytes in one piece. -/
theorem transferExitDecodes : Obligations.TransferExitDecodes := by
  intro s data rest hcmd hl halloc
  have hdecode (make : Bytes → Message) :
      decodeTransferExit make s.params s.l.toNat (data ++ rest) = .ok (make data) rest := by
    rw [hl]
    exact decodeTransferExit_append make data rest halloc
  exact ⟨exec_decode_append hcmd rfl nofun (hdecode .transferExitReq),
    exec_decode_append hcmd rfl nofun (hdecode .transferExitRsp)⟩

/-! ### RequestDownload -/

/-- A legal width fits a nibble. -/
theorem toNat_nibble_of_legalWidth {w : Nat} (h : legalWidth w = true) : (BitVec.ofNat 4 w).toNat = w := by
  have := legalWidth_le w h
  rw [BitVec.toNat_ofNat]
  omega

theorem decodeRequestDownloadReq_append (c : Params) (compression encryption : Nibble) (address size rest : Bytes)
    (ha : legalWidth address.length = true) (hs : legalWidth size.length = true) :
    decodeRequestDownloadReq c (2 + address.length + size.length) (nibbles compression encryption ::
        nibbles (BitVec.ofNat 4 size.length) (BitVec.ofNat 4 address.length) :: (address ++ size ++ rest)) =
      .ok (.requestDownloadReq
        { compression := compression
          encryption := encryption
          addrBytes := BitVec.ofNat 4 address.length
          sizeBytes := BitVec.ofNat 4 size.length
          address := BitVec.ofNat 32 (bigEndian address)
          size := BitVec.ofNat 32 (bigEndian size) }) rest := by
  simp only [decodeRequestDownloadReq, readByte_cons, split_nibbles, toNat_nibble_of_legalWidth ha,
    toNat_nibble_of_legalWidth hs]
  rw [checkMin_le _ _ _ _ (by omega), checkWidth_legal _ _ _ ha, checkWidth_legal _ _ _ hs, checkExact_self,
    List.append_assoc, readVar_append _ _ _ _ ha rfl, readVar_append _ _ _ _ hs rfl, bigEndian_eq_be, bigEndian_eq_be]

/-- Settles O19: the descriptor's low nibble is the width of the address, its high nibble that of the size. -/
theorem requestDownloadReqDecodes : Obligations.RequestDownloadReqDecodes := by
  intro s compression encryption address size rest hcmd ha hs hl
  rw [← legalWidth_iff] at ha hs
  have hdecode := decodeRequestDownloadReq_append s.params compression encryption address size rest ha hs
  rw [← hl] at hdecode
  have hlen : 2 + address.length + size.length = (nibbles compression encryption ::
      nibbles (BitVec.ofNat 4 size.length) (BitVec.ofNat 4 address.length) :: (address ++ size)).length := by
    simp only [List.length_cons, List.length_append]
    omega
  rw [hlen]
  exact exec_decode_append hcmd rfl nofun hdecode

theorem decodeRequestDownloadRsp_append {c : Params} {low : Nibble} (value rest : Bytes)
    (hw : legalWidth value.length = true) (hlow : c.rdRspLowNibble = .ignore ∨ low = 0) :
    decodeRequestDownloadRsp c (1 + value.length) (nibbles (BitVec.ofNat 4 value.length) low :: (value ++ rest)) =
      .ok (.requestDownloadRsp (BitVec.ofNat 4 value.length) (BitVec.ofNat 32 (bigEndian value))) rest := by
  have haccepts : ¬ (c.rdRspLowNibble = .reject ∧ low ≠ 0) := by
    rintro ⟨hreject, hne⟩
    obtain hignore | hzero := hlow
    · cases hignore.symm.trans hreject
    · exact hne hzero
  simp only [decodeRequestDownloadRsp, readByte_cons, split_nibbles, toNat_nibble_of_legalWidth hw]
  rw [checkMin_le _ _ _ _ (by omega), lowNibbleRule, if_neg haccepts, checkWidth_legal _ _ _ hw, checkExact_self,
    readVar_append _ _ _ _ hw rfl, bigEndian_eq_be]

/-- Settles O20: the rule of the low nibble accepts the descriptor, whose high nibble is the width. -/
theorem requestDownloadRspDecodes : Obligations.RequestDownloadRspDecodes := by
  intro s low value rest hcmd hw hl hlow
  rw [← legalWidth_iff] at hw
  have hdecode := decodeRequestDownloadRsp_append value rest hw hlow
  rw [← hl] at hdecode
  rw [show 1 + value.length = (nibbles (BitVec.ofNat 4 value.length) low :: value).length by simp [Nat.add_comm]]
  exact exec_decode_append hcmd rfl nofun hdecode

/-! ### RequestFileTransfer -/

/-- A row of RequestFileTransfer whose payload is the mode byte and the tail of some fields, and which runs the decoder of
its kind on it, ends with those fields (R109, R230). -/
theorem exec_fileTransfer {i : Instr} {s : State} {f : FileTransfer} {make : FileTransfer → Message} {rest : Bytes}
    (hcmd : s.cmd = some .decode) (hwf : wfFileTransfer s.params f = true) (hnormal : normalFile s.params f = f)
    (hl : s.l.toNat = (f.mode :: fileTransferTail s.params f).length)
    (hpayload : i.payload = f.mode :: (fileTransferTail s.params f ++ rest))
    (hkind : ¬ (i.kind = .readDtcReq ∨ i.kind = .readDtcRsp))
    (hdecode : decodePayload s.params s.l.toNat i = decodeFileTransfer make s.params s.l.toNat i.payload) :
    exec i s = .next (decoded (make f) s.l.toNat s) := by
  have hall := decodeFileTransfer_tail make hwf
  rw [← hl, hnormal] at hall
  rw [hpayload] at hdecode
  have hread := hdecode.trans ((decodeFileTransfer_extends make).ok (more := rest) hall)
  rw [List.nil_append] at hread
  rw [hl]
  exact exec_decode_append hcmd hpayload hkind hread

/-- Settles O21: the tail decodes to the fields, and each mode row has the mode byte it reads. -/
theorem fileTransferDecodes : Obligations.FileTransferDecodes := by
  intro s f rest hcmd hfields hnormal hl
  have hwf := (wfFileTransfer_iff s.params f).mpr hfields
  replace hl : s.l.toNat = (f.mode :: fileTransferTail s.params f).length := hl.trans (Nat.add_comm 1 _)
  have hrow {i : Instr} {make : FileTransfer → Message} :=
    exec_fileTransfer (i := i) (make := make) (rest := rest) hcmd hwf hnormal hl
  refine ⟨hrow rfl nofun rfl, hrow rfl nofun rfl, fun hmode => ⟨?_, ?_⟩, fun hmode => ⟨?_, ?_⟩, fun hmode => ⟨?_, ?_⟩,
    fun hmode => ⟨?_, ?_⟩, fun hmode => ⟨?_, ?_⟩⟩
  all_goals exact hrow (by rw [hmode]; rfl) nofun rfl

end Sys2Proof.Machine
end

section
/-! What DECODE accepts, ENCODE reproduces: the bytes of the message that was decoded are those it was decoded from (R111,
R186, R314). -/

namespace Sys2Proof.Machine

open Stated

/-! ### The layouts: the bytes of what was decoded -/

theorem decodeDid_bytes {make : Half → Message} {l : Nat} {payload rest : Bytes} {m : Message}
    (h : decodeDid make l payload = .ok m rest) : ∃ did, m = make did ∧ payload = bytesOf did.toNat 2 ++ rest := by
  simp only [decodeDid, checkExact_ok_iff, readU16_ok_iff_bytesOf] at h
  obtain ⟨-, did, more, rfl, hmake⟩ := h
  cases hmake
  exact ⟨did, rfl, rfl⟩

theorem decodeDidData_bytes {make : Half → Bytes → Message} {c : Params} {l : Nat} {payload rest : Bytes} {m : Message}
    (h : decodeDidData make c l payload = .ok m rest) :
    ∃ did data, m = make did data ∧ payload = bytesOf did.toNat 2 ++ data ++ rest := by
  simp only [decodeDidData, checkMin_ok_iff, readU16_ok_iff_bytesOf] at h
  obtain ⟨-, did, more, rfl, htail⟩ := h
  obtain ⟨data, more, rfl, hmake⟩ := readTrailing_ok htail
  cases hmake
  exact ⟨did, data, rfl, (List.append_assoc _ _ _).symm⟩

theorem decodeTransferExit_bytes {make : Bytes → Message} {c : Params} {l : Nat} {payload rest : Bytes} {m : Message}
    (h : decodeTransferExit make c l payload = .ok m rest) : ∃ data, m = make data ∧ payload = data ++ rest := by
  rw [decodeTransferExit, checkMin_zero] at h
  obtain ⟨data, more, rfl, hmake⟩ := readTrailing_ok h
  cases hmake
  exact ⟨data, rfl, rfl⟩

theorem decodeRaw_bytes {sid : Byte} {c : Params} {l : Nat} {payload rest : Bytes} {m : Message}
    (h : decodeRaw sid c l payload = .ok m rest) : ∃ data, m = .raw (sid :: data) ∧ payload = data ++ rest := by
  obtain ⟨data, more, rfl, hmake⟩ := readTrailing_ok h
  cases hmake
  exact ⟨data, rfl, rfl⟩

theorem decodeTransferDataReq_bytes {c : Params} {l : Nat} {payload rest : Bytes} {m : Message}
    (h : decodeTransferDataReq c l payload = .ok m rest) :
    ∃ seq data, m = .transferDataReq seq data ∧ payload = seq :: data ++ rest := by
  simp only [decodeTransferDataReq, checkMin_ok_iff, readByte_ok_iff] at h
  obtain ⟨-, seq, more, rfl, htail⟩ := h
  obtain ⟨data, more, rfl, hmake⟩ := readTrailing_ok htail
  cases hmake
  exact ⟨seq, data, rfl, rfl⟩

theorem decodeTransferDataRsp_bytes {c : Params} {l : Nat} {payload rest : Bytes} {m : Message}
    (h : decodeTransferDataRsp c l payload = .ok m rest) : ∃ seq, m = .transferDataRsp seq ∧ payload = seq :: rest := by
  simp only [decodeTransferDataRsp, checkExact_ok_iff, readByte_ok_iff] at h
  obtain ⟨-, seq, more, rfl, hmake⟩ := h
  cases hmake
  exact ⟨seq, rfl, rfl⟩

theorem decodeNegativeResponse_bytes {c : Params} {l : Nat} {payload rest : Bytes} {m : Message}
    (h : decodeNegativeResponse c l payload = .ok m rest) :
    ∃ faultedSid code, m = .negativeResponse faultedSid code ∧ payload = faultedSid :: code :: rest := by
  simp only [decodeNegativeResponse, checkExact_ok_iff, readByte_ok_iff] at h
  obtain ⟨-, faultedSid, more, rfl, code, more, rfl, hmake⟩ := h
  cases hmake
  exact ⟨faultedSid, code, rfl, rfl⟩

theorem decodeRequestDownloadReq_bytes {c : Params} {l : Nat} {payload rest : Bytes} {m : Message}
    (h : decodeRequestDownloadReq c l payload = .ok m rest) :
    ∃ f, m = .requestDownloadReq f ∧ payload = downloadBytes f ++ rest := by
  simp only [decodeRequestDownloadReq, checkMin_ok_iff, readByte_ok_iff, checkWidth_ok_iff, checkExact_ok_iff,
    readVar_ok_iff_bytesOf] at h
  obtain ⟨-, methodByte, _, rfl, descriptor, _, rfl, -, -, -, address, _, -, rfl, size, more, -, rfl, hmake⟩ := h
  cases hmake
  refine ⟨_, rfl, ?_⟩
  simp only [downloadBytes, nibbles_split, List.cons_append, List.append_assoc]

/-- The descriptor's low nibble is the one part of a message that is not retained (R223, R314). -/
theorem decodeRequestDownloadRsp_bytes {c : Params} {l : Nat} {payload rest : Bytes} {m : Message}
    (h : decodeRequestDownloadRsp c l payload = .ok m rest) :
    ∃ w v low, m = .requestDownloadRsp w v ∧ payload = nibbles w low :: (bytesOf v.toNat w.toNat ++ rest) := by
  simp only [decodeRequestDownloadRsp, checkMin_ok_iff, readByte_ok_iff, lowNibbleRule_ok_iff, checkWidth_ok_iff,
    checkExact_ok_iff, readVar_ok_iff_bytesOf] at h
  obtain ⟨-, descriptor, _, rfl, -, -, -, v, more, -, rfl, hmake⟩ := h
  cases hmake
  exact ⟨_, v, (split descriptor).2, rfl, by rw [nibbles_split]⟩

/-- The engine's value is encoded as the bytes it was decoded from (R134). -/
theorem decodeDtc_bytes {table : Entries} {make : Val → Message} {l : Nat} {payload rest : Bytes} {m : Message}
    (h : decodeDtc table make l payload = .ok m rest) :
    ∃ v, m = make v ∧ ¬ ReachesUnsupported (.union table) v ∧ payload = valueBytes v ++ rest := by
  obtain ⟨buf, more, rfl, rfl, hengine⟩ := srcRead_ok_iff_append.mp h
  split at hengine
  · cases hengine
  · cases hengine
  · next v used hv =>
    split at hengine
    · cases hengine
    · next hused =>
      cases hengine
      obtain ⟨left, hshape, hleft⟩ := (engineDecode_zero_ok_iff _ buf v used).mp hv
      obtain ⟨henc, hbuf⟩ := decodeShape_encodes _ buf v left hshape
      have hlen := congrArg List.length hbuf
      rw [List.length_append] at hlen
      obtain rfl : left = [] := List.length_eq_zero_iff.mp (by omega)
      rw [List.append_nil] at hbuf
      exact ⟨v, rfl, fun hreach => encodeShape_of_reachesUnsupported hreach _ henc, by rw [← hbuf]⟩

/-! #### RequestFileTransfer -/

theorem readMethod_bytes {c : Params} {f : FileTransfer} {bs rest : Bytes} {m : Message}
    {k : FileTransfer → Bytes → ReadResult Message} (hmode : legalMode f.mode = true)
    (h : readMethod c f bs k = .ok m rest) :
    ∃ compression encryption more,
      bs = methodBytes c { f with compression := compression, encryption := encryption } ++ more ∧
      k { f with compression := compression, encryption := encryption } more = .ok m rest := by
  rw [readMethod, hasMethod_eq_carriesMethod c hmode] at h
  split at h
  · next hm =>
    obtain ⟨b, more, rfl, hk⟩ := (readByte_ok_iff _ _ _ _).mp h
    refine ⟨_, _, more, ?_, hk⟩
    simp only [methodBytes, hm, if_true, nibbles_split, List.singleton_append]
  · next hm =>
    refine ⟨f.compression, f.encryption, bs, ?_, h⟩
    simp only [methodBytes, hm, Bool.false_eq_true, if_false, List.nil_append]

theorem readSizes_bytes {c : Params} {l n : Nat} {f : FileTransfer} {bs rest : Bytes} {m : Message}
    {k : FileTransfer → Bytes → ReadResult Message} (hmode : legalMode f.mode = true)
    (h : readSizes c l n f bs k = .ok m rest) :
    ∃ w u z more,
      bs = sizeGroupBytes c { f with fsizeBytes := w, sizeUncompressed := u, sizeCompressed := z } ++ more ∧
      k { f with fsizeBytes := w, sizeUncompressed := u, sizeCompressed := z } more = .ok m rest := by
  rw [readSizes, hasSize_eq_carriesSize c hmode] at h
  split at h
  · next hs =>
    simp only [readByte_ok_iff, checkWidth_ok_iff, checkExact_ok_iff, readVar_ok_iff_bytesOf] at h
    obtain ⟨w, _, rfl, -, -, u, _, -, rfl, z, more, -, rfl, h⟩ := h
    refine ⟨w, u, z, more, ?_, h⟩
    simp only [sizeGroupBytes, hs, if_true, List.cons_append, List.append_assoc]
  · next hs =>
    refine ⟨f.fsizeBytes, f.sizeUncompressed, f.sizeCompressed, bs, ?_, h⟩
    simp only [sizeGroupBytes, hs, Bool.false_eq_true, if_false, List.nil_append]

theorem decodeFileTransfer_bytes {make : FileTransfer → Message} {c : Params} {l : Nat} {payload rest : Bytes}
    {m : Message} (h : decodeFileTransfer make c l payload = .ok m rest) :
    ∃ f, m = make f ∧ payload = f.mode :: fileTransferTail c f ++ rest := by
  simp only [decodeFileTransfer, checkMin_ok_iff, readByte_ok_iff, checkMode_ok_iff, readU16_ok_iff_bytesOf,
    checkFixedPart_ok_iff, srcRead_ok_iff_append, checkUtf8_ok_iff] at h
  obtain ⟨-, mode, _, rfl, hmode, pathLength, _, rfl, -, path, _, hpath, rfl, -, hmethod⟩ := h
  obtain ⟨compression, encryption, _, rfl, hsizes⟩ := readMethod_bytes hmode hmethod
  obtain ⟨w, u, z, more, rfl, hmake⟩ := readSizes_bytes hmode hsizes
  cases hmake
  refine ⟨_, rfl, ?_⟩
  simp only [fileTransferTail_eq, hpath, methodBytes, List.cons_append, List.append_assoc]

/-! ### Every kind -/

/-- What a payload decodes to has the payload's bytes behind the SID of its kind, or for a Raw behind the SID as it was
read, and ENCODE can write it; a RequestDownload.rsp only where the low nibble of the descriptor is 0 (R186, R314). -/
theorem wire_of_decodeKind {c : Params} {l : Nat} {sid : Byte} {payload rest : Bytes} {k : Kind} {m : Message}
    (h : decodeKind c l sid payload k = .ok m rest)
    (hlow : k = .requestDownloadRsp → ∀ descriptor more, payload = descriptor :: more →
      descriptor.extractLsb' 0 4 = 0) :
    wire c m ++ rest = (sidOf k).getD sid :: payload ∧ ¬ meetsUnsupported c m ∧ tablesOk c m := by
  cases k with
  | readDidReq | writeDidRsp =>
    obtain ⟨did, rfl, rfl⟩ := decodeDid_bytes h
    exact ⟨rfl, id, trivial⟩
  | readDidRsp | writeDidReq =>
    obtain ⟨did, data, rfl, rfl⟩ := decodeDidData_bytes h
    exact ⟨rfl, id, trivial⟩
  | readDtcReq | readDtcRsp =>
    simp only [decodeKind, decodeReadDtcReq, decodeReadDtcRsp] at h
    split at h
    · next htable =>
      obtain ⟨v, rfl, hreach, rfl⟩ := decodeDtc_bytes h
      exact ⟨rfl, hreach, htable⟩
    · cases h
  | requestDownloadReq =>
    obtain ⟨f, rfl, rfl⟩ := decodeRequestDownloadReq_bytes (c := c) h
    exact ⟨rfl, id, trivial⟩
  | requestDownloadRsp =>
    obtain ⟨w, v, low, rfl, rfl⟩ := decodeRequestDownloadRsp_bytes h
    have hzero := hlow rfl _ _ rfl
    rw [← split_snd, split_nibbles] at hzero
    obtain rfl : low = 0 := hzero
    exact ⟨rfl, id, trivial⟩
  | fileTransferReq | fileTransferRsp =>
    obtain ⟨f, rfl, rfl⟩ := decodeFileTransfer_bytes h
    exact ⟨rfl, id, trivial⟩
  | transferDataReq =>
    obtain ⟨seq, data, rfl, rfl⟩ := decodeTransferDataReq_bytes h
    exact ⟨rfl, id, trivial⟩
  | transferDataRsp =>
    obtain ⟨seq, rfl, rfl⟩ := decodeTransferDataRsp_bytes (c := c) h
    exact ⟨rfl, id, trivial⟩
  | transferExitReq | transferExitRsp =>
    obtain ⟨data, rfl, rfl⟩ := decodeTransferExit_bytes h
    exact ⟨rfl, id, trivial⟩
  | negativeResponse =>
    obtain ⟨faultedSid, code, rfl, rfl⟩ := decodeNegativeResponse_bytes (c := c) h
    exact ⟨rfl, id, trivial⟩
  | raw =>
    obtain ⟨data, rfl, rfl⟩ := decodeRaw_bytes h
    exact ⟨rfl, id, trivial⟩

/-- The SID of the kind a SID selects is that SID; a Raw keeps the SID it has (R110, R179). -/
theorem sidOf_kindOfSid_getD (sid : Byte) : (sidOf (kindOfSid sid)).getD sid = sid := by
  obtain hraw | hsid := sidOf_kindOfSid sid
  · rw [hraw]
    rfl
  · rw [hsid]
    rfl

/-- The bytes of the message that a string decodes to are that string (R186). -/
theorem wire_of_decodePayload {c : Params} {l : Nat} {sid : Byte} {payload rest : Bytes} {m : Message}
    (h : decodePayload c l (instrOf sid payload) = .ok m rest)
    (hlow : sid = 0x74 → ∀ descriptor more, payload = descriptor :: more → descriptor.extractLsb' 0 4 = 0) :
    wire c m ++ rest = sid :: payload ∧ ¬ meetsUnsupported c m ∧ tablesOk c m := by
  rw [decodePayload_instrOf] at h
  have hwire := wire_of_decodeKind h fun hk => hlow <| by
    have hsid := (sidOf_kindOfSid sid).resolve_left (by rw [hk]; nofun)
    rw [hk] at hsid
    exact (Option.some.inj hsid).symm
  rwa [sidOf_kindOfSid_getD] at hwire

/-- A DECODE that returns a message has decoded all of its PLEN bytes to it (R176, R177). -/
theorem step_decode_message {s t : State} {plen : Len} {rest : List HostMove} {m : Message}
    (h : s.host = .decode plen :: rest) (ht : step s = .next t) (hm : t.msg = some m) :
    ∃ sid payload, s.src.remaining.take plen.toNat = sid :: payload ∧
      decodePayload s.params (plen - 1).toNat (instrOf sid payload) = .ok m [] := by
  by_cases hz : plen = 0
  · cases (step_decode_zero h hz).symm.trans ht
    cases hm
  cases hw : s.src.remaining.take plen.toNat with
  | nil =>
    cases (step_decode_empty h hz hw).symm.trans ht
    cases hm
  | cons sid payload =>
    refine ⟨sid, payload, rfl, ?_⟩
    obtain ⟨buf, hrun⟩ := step_decode_run h hz hw
    obtain ⟨m', left, hr, rfl⟩ | ⟨left, -, rfl⟩ | ⟨e, left, -, rfl⟩ :=
      (endDecode_next_iff _ _ _ t).mp (hrun.symm.trans ht)
    · cases hm
      obtain ⟨hread, -⟩ := decodePayload_ok hr
      have hgiven := congrArg List.length hw
      have hl := len_sub_one hz
      rw [List.length_take, List.length_cons] at hgiven
      rw [instrOf_payload] at hread
      obtain rfl : left = [] := List.length_eq_zero_iff.mp (by omega)
      exact hr
    · cases hm
    · cases hm

/-- Settles O52: the message is well-formed, and the bytes of its format are those it was decoded from. -/
theorem decodeThenEncode : Obligations.DecodeThenEncode := by
  intro s t plen m rest h hcap ht hm hlow
  obtain ⟨sid, payload, hw, hdecode⟩ := step_decode_message h ht hm
  obtain ⟨hparams, -, hsnk, -⟩ := step_decode_frame h ht
  obtain ⟨-, hwf, -⟩ := decodePayload_ok hdecode
  have hbytes : remaining s = sid :: (payload ++ (remaining s).drop plen.toNat) := by
    rw [← List.cons_append, ← hw]
    exact (List.take_append_drop _ _).symm
  obtain ⟨hwire, hreach, htables⟩ := wire_of_decodePayload hdecode fun hsid descriptor more hpayload =>
    hlow descriptor _ (by rw [hbytes, hsid, hpayload]; rfl)
  rw [List.append_nil] at hwire
  obtain ⟨happend, -⟩ := encodeMessage_appends hwf hreach htables s.snk
  have hok := happend (by simp [WithinCap, hcap])
  rw [hwire, ← hparams, ← hsnk] at hok
  refine ⟨_, step_encode_ok (s := { t with host := [.encode m] }) rfl hok, rfl, ?_⟩
  change t.snk ++ _ = s.snk ++ s.src.remaining.take plen.toNat
  rw [hsnk, hw]

end Sys2Proof.Machine
end

section
/-! The two round trips of the Codec Engine: what a shape takes of its input, and that a value which decodes has met no
unsupported shape (R128, R129, R132 to R134). -/

namespace Sys2Proof.Machine

open Stated

/-! ### One rule for each construct of the decoder -/

theorem decodeShape_record_ok_iff {fields : Entries} {buf rest : Bytes} {v : Val} :
    decodeShape (.record fields) buf = .ok (v, rest) ↔
      ∃ vs, decodeFields fields buf = .ok (vs, rest) ∧ v = .record vs := by
  rw [decodeShape]
  cases decodeFields fields buf with
  | error e => simp
  | ok r => simp [Prod.ext_iff, eq_comm, and_comm]

theorem decodeShape_seq_ok_iff {element : Shape} {buf rest : Bytes} {v : Val} :
    decodeShape (.seq element) buf = .ok (v, rest) ↔
      ∃ vs, decodeSeq (decodeShape element) (buf.length + 1) buf = .ok (vs, rest) ∧ v = .seq vs := by
  rw [decodeShape]
  cases decodeSeq (decodeShape element) (buf.length + 1) buf with
  | error e => simp
  | ok r => simp [Prod.ext_iff, eq_comm, and_comm]

theorem decodeVariant_ok_iff {variants : Entries} {i : Nat} {buf rest : Bytes} {v : Val} :
    decodeVariant variants i buf = .ok (v, rest) ↔
      ∃ entry, variants.get? i = some entry ∧ decodeShape entry.2 buf = .ok (v, rest) := by
  rw [decodeVariant_eq]
  cases variants.get? i <;> simp

/-! ### What a shape takes -/

/-- A shape that decodes takes its least length or more (R129); the same for the fields of a record and for the entry
every index names. -/
theorem minLen_add_le_of_decodeShape (shape : Shape) :
    ∀ buf v rest, decodeShape shape buf = .ok (v, rest) → minLen shape + rest.length ≤ buf.length := by
  induction shape using Shape.rec
    (motive_2 := fun entries =>
      (∀ buf vs rest, decodeFields entries buf = .ok (vs, rest) →
        fieldsMinLen entries + rest.length ≤ buf.length) ∧
      (∀ i entry, entries.get? i = some entry → ∀ buf v rest, decodeShape entry.2 buf = .ok (v, rest) →
        minLen entry.2 + rest.length ≤ buf.length)) with
  | u8 | u16 | u32 =>
    intro buf v rest h
    obtain ⟨hlen, -, rfl⟩ := (decodeInt_ok_iff _ _ buf v rest).mp h
    rw [minLen, List.length_drop]
    omega
  | unit =>
    intro buf v rest h
    cases h
    simp [minLen]
  | record fields ih =>
    intro buf v rest h
    obtain ⟨vs, hvs, -⟩ := decodeShape_record_ok_iff.mp h
    exact ih.1 buf vs rest hvs
  | union variants ih =>
    intro buf v rest h
    obtain ⟨index, more, w, rfl, hw, -⟩ := (decodeShape_union_ok_iff variants buf v rest).mp h
    obtain ⟨entry, hentry, hw⟩ := decodeVariant_ok_iff.mp hw
    have hleast := leastMinLen_le variants _ entry hentry
    have htaken := ih.2 _ entry hentry more w rest hw
    rw [minLen, List.length_cons]
    omega
  | seq element _ =>
    intro buf v rest h
    obtain ⟨-, rfl⟩ := decodeShape_encodes _ buf v rest h
    simp [minLen]
  | unsupported what => intro buf v rest h; cases h
  | nil =>
    refine ⟨fun buf vs rest h => ?_, fun i entry h => by cases h⟩
    cases h
    simp [fieldsMinLen]
  | cons name shape rest ihShape ihRest =>
    refine ⟨fun buf vs rest' h => ?_, fun i entry h => ?_⟩
    · obtain ⟨v, mid, ws, hv, hws, -⟩ := (decodeFields_cons_ok_iff name shape rest buf vs rest').mp h
      have hfirst := ihShape buf v mid hv
      have hlater := ihRest.1 mid ws rest' hws
      rw [fieldsMinLen]
      omega
    · cases i with
      | zero => cases h; exact ihShape
      | succ i => exact ihRest.2 i entry h

/-- A shape of least length 0 that holds no sequence takes nothing, whatever the input (R129, R132). -/
theorem decodeShape_of_minLen_zero (shape : Shape) :
    shapeOk false shape = true → minLen shape = 0 → ∀ buf, ∃ v, decodeShape shape buf = .ok (v, buf) := by
  induction shape using Shape.rec
    (motive_2 := fun entries => fieldsOk false entries = true → fieldsMinLen entries = 0 →
      ∀ buf, ∃ vs, decodeFields entries buf = .ok (vs, buf)) with
  | u8 | u16 | u32 | unsupported => exact fun _ h => by cases h
  | unit => exact fun _ _ buf => ⟨.unit, rfl⟩
  | record fields ih =>
    intro hok h buf
    obtain ⟨vs, hvs⟩ := ih hok h buf
    exact ⟨_, decodeShape_record_ok_iff.mpr ⟨vs, hvs, rfl⟩⟩
  | union variants _ => exact fun _ h => by rw [minLen] at h; omega
  | seq element _ => exact fun hok => by cases hok
  | nil => exact ⟨.nil, rfl⟩
  | cons name shape rest ihShape ihRest hok h buf =>
    simp only [fieldsOk, Bool.false_and, Bool.and_eq_true] at hok
    rw [fieldsMinLen, Nat.add_eq_zero_iff] at h
    obtain ⟨v, hv⟩ := ihShape hok.1 h.1 buf
    obtain ⟨vs, hvs⟩ := ihRest hok.2 h.2 buf
    exact ⟨_, (decodeFields_cons_ok_iff _ _ _ _ _ _).mpr ⟨v, buf, vs, hv, hvs, rfl⟩⟩

/-! ### Unsupported shapes -/

/-- A shape whose walk reaches an unsupported one before it asks for a byte is a mismatch over every input (R128). -/
theorem decodeShape_of_emptyWalkUnsupported (shape : Shape) :
    shapeOk false shape = true → emptyWalkUnsupported shape = true →
      ∀ buf, decodeShape shape buf = .error .protocolMismatch := by
  induction shape using Shape.rec
    (motive_2 := fun entries => fieldsOk false entries = true → fieldsEmptyWalkUnsupported entries = true →
      ∀ buf, decodeFields entries buf = .error .protocolMismatch) with
  | u8 | u16 | u32 | unit | union => exact fun _ h => by cases h
  | record fields ih => exact fun hok h buf => by rw [decodeShape, ih hok h buf]
  | seq element _ => exact fun hok => by cases hok
  | unsupported what => exact fun _ _ _ => rfl
  | nil _ h => cases h
  | cons name shape rest ihShape ihRest hok h buf =>
    simp only [fieldsOk, Bool.false_and, Bool.and_eq_true] at hok
    simp only [fieldsEmptyWalkUnsupported, Bool.or_eq_true, Bool.and_eq_true, decide_eq_true_eq] at h
    obtain hwalk | ⟨hmin, hwalk⟩ := h
    · rw [decodeFields, ihShape hok.1 hwalk buf]
    · obtain ⟨v, hv⟩ := decodeShape_of_minLen_zero shape hok.1 hmin buf
      simp only [decodeFields, hv, ihRest hok.2 hwalk buf]

/-- What decodes has met no unsupported shape, in the attempt that ends a sequence neither; the same for the fields of a
record and for every variant (R128, R133). -/
theorem meetsNoUnsupported_of_decodeShape (shape : Shape) :
    ∀ tail, shapeOk tail shape = true → ∀ buf v rest, decodeShape shape buf = .ok (v, rest) →
      meetsNoUnsupported shape v = true := by
  induction shape using Shape.rec
    (motive_2 := fun entries =>
      (∀ tail, fieldsOk tail entries = true → ∀ buf vs rest, decodeFields entries buf = .ok (vs, rest) →
        fieldsMeetNoUnsupported entries vs = true) ∧
      (∀ tail, variantsOk tail entries = true → ∀ i buf v rest, decodeVariant entries i buf = .ok (v, rest) →
        variantMeetsNoUnsupported entries i v = true)) with
  | u8 | u16 | u32 | unit => exact fun _ _ _ _ _ _ => by simp [meetsNoUnsupported]
  | record fields ih =>
    intro tail hok buf v rest h
    obtain ⟨vs, hvs, rfl⟩ := decodeShape_record_ok_iff.mp h
    exact ih.1 tail hok buf vs rest hvs
  | union variants ih =>
    intro tail hok buf v rest h
    simp only [shapeOk, Bool.and_eq_true] at hok
    obtain ⟨index, more, w, -, hw, rfl⟩ := (decodeShape_union_ok_iff variants buf v rest).mp h
    exact ih.2 tail hok.2 index.toNat more w rest hw
  | seq element ih =>
    intro tail hok buf v rest h
    simp only [shapeOk, Bool.and_eq_true] at hok
    obtain ⟨vs, hvs, rfl⟩ := decodeShape_seq_ok_iff.mp h
    have hwalk : emptyWalkUnsupported element = false := by
      by_contra hreach
      rw [decodeSeq, decodeShape_of_emptyWalkUnsupported element hok.2 (by simpa using hreach)] at hvs
      cases hvs
    simp [meetsNoUnsupported, hwalk, decodeSeq_allVals _ _ (ih false hok.2) _ buf vs rest hvs]
  | unsupported what => exact fun _ _ _ _ _ h => by cases h
  | nil => exact ⟨fun _ _ _ _ _ _ => rfl, fun _ _ _ _ _ _ h => by cases h⟩
  | cons name shape fields ihShape ihRest =>
    refine ⟨fun tail hok buf vs rest h => ?_, fun tail hok i buf v rest h => ?_⟩
    · simp only [fieldsOk, Bool.and_eq_true] at hok
      obtain ⟨v, mid, ws, hv, hws, rfl⟩ := (decodeFields_cons_ok_iff name shape fields buf vs rest).mp h
      simp [fieldsMeetNoUnsupported, ihShape _ hok.1 buf v mid hv, ihRest.1 tail hok.2 mid ws rest hws]
    · simp only [variantsOk, Bool.and_eq_true] at hok
      cases i with
      | zero => exact ihShape tail hok.1 buf v rest h
      | succ i => exact ihRest.2 tail hok.2 i buf v rest h

/-! ### The two round trips -/

/-- The engine's decoding of a whole buffer, by the bytes of its value: they are the ones used, and what the value encodes
to (R129, R134). -/
theorem engineDecode_zero_ok {shape : Shape} {buf : Bytes} {v : Val} {used : Nat}
    (h : engineDecode shape buf 0 = .ok (v, used)) :
    used ≤ buf.length ∧ valueBytes v = buf.take used ∧ engineEncode shape v = .ok (buf.take used) ∧
      used = engineLen shape v := by
  obtain ⟨rest, hv, rfl⟩ := (engineDecode_zero_ok_iff shape buf v used).mp h
  obtain ⟨henc, rfl⟩ := decodeShape_encodes shape buf v rest hv
  obtain ⟨-, hlen⟩ := encodeShape_value shape v (hasShape_of_encodeShape shape v _ henc)
    fun hreach => encodeShape_of_reachesUnsupported hreach _ henc
  rw [List.length_append, Nat.add_sub_cancel, List.take_left]
  exact ⟨Nat.le_add_right _ _, rfl, henc, hlen.symm⟩

/-- Settles O10: a value that meets no unsupported shape reaches none on encode either, and one that decodes has met
none. -/
theorem engineDecodeInvertsEncode : Obligations.EngineDecodeInvertsEncode := by
  intro table v htable hshape
  have hencode (hmeets : meetsNoUnsupported (.union table) v = true) :=
    encodeShape_value _ v hshape (not_reachesUnsupported hmeets)
  refine ⟨⟨fun hmeets => ?_, fun ⟨_, hdecode⟩ => ?_⟩, fun hmeets => (hencode hmeets).2⟩
  · obtain ⟨henc, hlen⟩ := hencode hmeets
    exact ⟨henc, by rw [engineDecode_valueBytes htable hshape hmeets, hlen]⟩
  · obtain ⟨rest, hv, -⟩ := (engineDecode_zero_ok_iff _ _ v _).mp hdecode
    exact meetsNoUnsupported_of_decodeShape _ true htable _ v rest hv

/-- Settles O11: the bytes used, here all of them, are what the value encodes to. -/
theorem engineEncodeInvertsDecode : Obligations.EngineEncodeInvertsDecode := by
  intro table buf v _ h
  obtain ⟨-, -, henc, -⟩ := engineDecode_zero_ok h
  rwa [List.take_length] at henc

end Sys2Proof.Machine
end

section
/-! The Codec Engine is the rules of R123 to R128: it gives every outcome they derive, and over a well-formed shape they
always derive one. -/

namespace Sys2Proof.Machine

open Stated

/-! ### Outcomes over offsets -/

section
variable {α : Type} {buf : Bytes} {p : Nat}

/-- An outcome of the rules as the decoder has it: what is left of the buffer in place of the offset. -/
def leftOf (buf : Bytes) : Except EngineFail (α × Nat) → Except EngineFail (α × Bytes)
  | .ok (v, q) => .ok (v, buf.drop q)
  | .error e => .error e

/-- What was decoded ends within the buffer. -/
def EndsWithin (buf : Bytes) : Except EngineFail (α × Nat) → Prop
  | .ok (_, q) => q ≤ buf.length
  | .error _ => True

/-- The engine gives the offset of an outcome within the buffer back (R122). -/
theorem engineDecode_eq_of_leftOf {shape : Shape} {r : Except EngineFail (Val × Nat)}
    (h : decodeShape shape buf = leftOf buf r) (hends : EndsWithin buf r) : engineDecode shape buf 0 = r := by
  cases r with
  | error e => simp [engineDecode, h, leftOf]
  | ok vq =>
    obtain ⟨v, q⟩ := vq
    replace hends : q ≤ buf.length := hends
    refine (engineDecode_zero_ok_iff shape buf v q).mpr ⟨_, h, ?_⟩
    rw [List.length_drop]
    omega

/-- The byte at an offset is the first of what is left there. -/
theorem drop_eq_cons_of_getElem? {b : Byte} (h : buf[p]? = some b) : buf.drop p = b :: buf.drop (p + 1) := by
  obtain ⟨hp, rfl⟩ := List.getElem?_eq_some_iff.mp h
  exact List.drop_eq_getElem_cons hp

end

/-- An integer shape is decoded at its width (R123). -/
theorem decodeShape_integer {shape : Shape} {n : Nat} (h : integerWidth shape = some n) (buf : Bytes) :
    decodeShape shape buf = decodeInt n (integerOf n) buf := by
  cases shape <;> cases h <;> rfl

theorem integerWidth_pos {shape : Shape} {n : Nat} (h : integerWidth shape = some n) : 0 < n := by
  cases shape <;> cases h <;> decide

/-- The entry that an index of a table names stands where the table stands (R132). -/
theorem shapeOk_of_get {tail : Bool} {name : String} {shape : Shape} :
    ∀ (variants : Entries) (i : Nat), variantsOk tail variants = true → variants.get? i = some (name, shape) →
      shapeOk tail shape = true
  | .cons _ _ rest, i, hok, h => by
    simp only [variantsOk, Bool.and_eq_true] at hok
    cases i with
    | zero => cases h; exact hok.1
    | succ i => exact shapeOk_of_get rest i hok.2 h

/-! ### What the rules derive ends within the buffer -/

/-- From an offset within the buffer the rules end within it: they use bytes that are there (R130). -/
theorem reads_endsWithin {shape : Shape} {buf : Bytes} {p : Nat} {r : Except EngineFail (Val × Nat)}
    (h : Reads shape buf p r) : p ≤ buf.length → EndsWithin buf r := by
  induction h using Reads.rec
    (motive_2 := fun _ buf p r _ => p ≤ buf.length → EndsWithin buf r)
    (motive_3 := fun _ buf p r _ => p ≤ buf.length → EndsWithin buf r) with
  | integer _ hn => exact fun _ => hn
  | unit => exact id
  | record _ ih | seq _ ih => exact ih
  | union hindex _ _ ih => exact fun _ => ih (List.getElem?_eq_some_iff.mp hindex).1
  | integerShort | recordFails | unionShort | unionNoEntry | unionFails | seqFails | unsupported =>
    exact fun _ => trivial
  | none hp | ends _ _ hp => exact hp
  | more _ _ ihFirst ihLater hp | next _ _ ihFirst ihLater hp => exact ihLater (ihFirst hp)
  | firstFails | laterFails | mismatch | nextFails => trivial

/-! ### What the rules derive, the decoder gives -/

/-- An element that decodes leaves less than it had, so one turn less of the loop is enough (R127, R132). -/
theorem length_drop_lt_of_element {element : Shape} {buf : Bytes} {p q : Nat} {v : Val}
    (hmin : 1 ≤ minLen element) (h : decodeShape element (buf.drop p) = .ok (v, buf.drop q)) :
    (buf.drop q).length < (buf.drop p).length := by
  have := minLen_add_le_of_decodeShape element _ _ _ h
  omega

/-- What the rules derive for a shape allowed where it stands (R132), the decoder answers; the same for the fields of a
record, and for the elements of a sequence with fuel for every byte left. -/
theorem decodeShape_of_reads {shape : Shape} {buf : Bytes} {p : Nat} {r : Except EngineFail (Val × Nat)}
    (h : Reads shape buf p r) :
    ∀ tail, shapeOk tail shape = true → decodeShape shape (buf.drop p) = leftOf buf r := by
  induction h using Reads.rec
    (motive_2 := fun fields buf p r _ =>
      ∀ tail, fieldsOk tail fields = true → decodeFields fields (buf.drop p) = leftOf buf r)
    (motive_3 := fun element buf p r _ => shapeOk false element = true → 1 ≤ minLen element →
      ∀ fuel, (buf.drop p).length < fuel → decodeSeq (decodeShape element) fuel (buf.drop p) = leftOf buf r) with
  | integer hwidth hn =>
    intro _ _
    rw [decodeShape_integer hwidth, bigEndian_eq_be]
    exact (decodeInt_ok_iff _ _ _ _ _).mpr ⟨by rw [List.length_drop]; omega, rfl, List.drop_drop ..⟩
  | integerShort hwidth hn =>
    intro _ _
    have hpos := integerWidth_pos hwidth
    rw [decodeShape_integer hwidth, decodeInt, if_pos (by rw [List.length_drop]; omega)]
    rfl
  | unit | unsupported => exact fun _ _ => rfl
  | record _ ih | recordFails _ ih =>
    intro tail hok
    rw [decodeShape, ih tail hok]
    rfl
  | unionShort hp =>
    intro _ _
    rw [List.drop_of_length_le hp]
    rfl
  | unionNoEntry hindex hentry =>
    intro _ _
    rw [drop_eq_cons_of_getElem? hindex, decodeShape, decodeVariant_eq, (Entries.get?_eq_none_iff _ _).mpr hentry]
    rfl
  | union hindex hentry _ ih | unionFails hindex hentry _ ih =>
    intro tail hok
    simp only [shapeOk, Bool.and_eq_true] at hok
    rw [drop_eq_cons_of_getElem? hindex, decodeShape, decodeVariant_eq, hentry]
    simp only [ih tail (shapeOk_of_get _ _ hok.2 hentry)]
    rfl
  | seq _ ih | seqFails _ ih =>
    intro tail hok
    simp only [shapeOk, Bool.and_eq_true, decide_eq_true_eq] at hok
    rw [decodeShape, ih hok.2 hok.1.2 _ (Nat.lt_succ_self _)]
    rfl
  | none => rfl
  | firstFails _ ih tail hok =>
    simp only [fieldsOk, Bool.and_eq_true] at hok
    rw [decodeFields, ih _ hok.1]
    rfl
  | more _ _ ihFirst ihLater tail hok | laterFails _ _ ihFirst ihLater tail hok =>
    simp only [fieldsOk, Bool.and_eq_true] at hok
    simp only [decodeFields, ihFirst _ hok.1, ihLater tail hok.2, leftOf]
  | ends _ ih hok _ fuel hfuel | mismatch _ ih hok _ fuel hfuel =>
    obtain ⟨fuel, rfl⟩ := Nat.exists_eq_succ_of_ne_zero (Nat.ne_zero_of_lt hfuel)
    rw [decodeSeq, ih false hok]
    rfl
  | next _ _ ihFirst ihLater hok hmin fuel hfuel | nextFails _ _ ihFirst ihLater hok hmin fuel hfuel =>
    obtain ⟨fuel, rfl⟩ := Nat.exists_eq_succ_of_ne_zero (Nat.ne_zero_of_lt hfuel)
    have hlt := length_drop_lt_of_element hmin (ihFirst false hok)
    simp only [decodeSeq, ihFirst false hok, ihLater hok hmin fuel (by omega), leftOf]

/-! ### The rules always derive an outcome -/

/-- An integer is there or runs out (R123, R130). -/
theorem reads_integer_total {shape : Shape} {n : Nat} (h : integerWidth shape = some n) (buf : Bytes) (p : Nat) :
    ∃ r, Reads shape buf p r := by
  by_cases hn : p + n ≤ buf.length
  · exact ⟨_, .integer h hn⟩
  · exact ⟨_, .integerShort h (by omega)⟩

/-- The greedy loop ends, because every element takes a byte or more (R127, R132). -/
theorem readsElements_total {element : Shape} {buf : Bytes} (hok : shapeOk false element = true)
    (hmin : 1 ≤ minLen element) (htotal : ∀ p, ∃ r, Reads element buf p r) (p : Nat) :
    ∃ r, ReadsElements element buf p r := by
  obtain ⟨r, hr⟩ := htotal p
  match r with
  | .error .insufficientData => exact ⟨_, .ends hr⟩
  | .error .protocolMismatch => exact ⟨_, .mismatch hr⟩
  | .ok (v, q) =>
    have hlt := length_drop_lt_of_element hmin (decodeShape_of_reads hr false hok)
    obtain ⟨e | ⟨vs, q'⟩, hlater⟩ := readsElements_total hok hmin htotal q
    · exact ⟨_, .nextFails hr hlater⟩
    · exact ⟨_, .next hr hlater⟩
termination_by (buf.drop p).length
decreasing_by exact hlt

/-- A shape allowed where it stands (R132) has an outcome at every offset; the same for the fields of a record and for the
entry every index names. -/
theorem reads_total (shape : Shape) :
    ∀ tail, shapeOk tail shape = true → ∀ buf p, ∃ r, Reads shape buf p r := by
  induction shape using Shape.rec
    (motive_2 := fun entries =>
      (∀ tail, fieldsOk tail entries = true → ∀ buf p, ∃ r, ReadsFields entries buf p r) ∧
      (∀ tail, variantsOk tail entries = true → ∀ i name shape, entries.get? i = some (name, shape) →
        ∀ buf p, ∃ r, Reads shape buf p r)) with
  | u8 | u16 | u32 => exact fun _ _ => reads_integer_total rfl
  | unit => exact fun _ _ _ _ => ⟨_, .unit⟩
  | unsupported what => exact fun _ _ _ _ => ⟨_, .unsupported⟩
  | record fields ih =>
    intro tail hok buf p
    obtain ⟨e | ⟨vs, q⟩, hr⟩ := ih.1 tail hok buf p
    · exact ⟨_, .recordFails hr⟩
    · exact ⟨_, .record hr⟩
  | union variants ih =>
    intro tail hok buf p
    simp only [shapeOk, Bool.and_eq_true] at hok
    cases hindex : buf[p]? with
    | none => exact ⟨_, .unionShort (List.getElem?_eq_none_iff.mp hindex)⟩
    | some index =>
      cases hentry : variants.get? index.toNat with
      | none => exact ⟨_, .unionNoEntry hindex ((Entries.get?_eq_none_iff _ _).mp hentry)⟩
      | some entry =>
        obtain ⟨e | ⟨v, q⟩, hr⟩ := ih.2 tail hok.2 _ _ _ hentry buf (p + 1)
        · exact ⟨_, .unionFails hindex hentry hr⟩
        · exact ⟨_, .union hindex hentry hr⟩
  | seq element ih =>
    intro tail hok buf p
    simp only [shapeOk, Bool.and_eq_true, decide_eq_true_eq] at hok
    obtain ⟨e | ⟨vs, q⟩, hr⟩ := readsElements_total hok.2 hok.1.2 (ih false hok.2 buf) p
    · exact ⟨_, .seqFails hr⟩
    · exact ⟨_, .seq hr⟩
  | nil => exact ⟨fun _ _ _ _ => ⟨_, .none⟩, fun _ _ _ _ _ h => by cases h⟩
  | cons name shape rest ihShape ihRest =>
    refine ⟨fun tail hok buf p => ?_, fun tail hok i name' shape' h => ?_⟩
    · simp only [fieldsOk, Bool.and_eq_true] at hok
      obtain ⟨e | ⟨v, q⟩, hfirst⟩ := ihShape _ hok.1 buf p
      · exact ⟨_, .firstFails hfirst⟩
      · obtain ⟨e | ⟨vs, q'⟩, hlater⟩ := ihRest.1 tail hok.2 buf q
        · exact ⟨_, .laterFails hfirst hlater⟩
        · exact ⟨_, .more hfirst hlater⟩
    · simp only [variantsOk, Bool.and_eq_true] at hok
      cases i with
      | zero => cases h; exact ihShape tail hok.1
      | succ i => exact ihRest.2 tail hok.2 i name' shape' h

/-! ### The obligation -/

/-- The engine gives what the rules derive (R122). -/
theorem engineDecode_of_reads {shape : Shape} {buf : Bytes} {r : Except EngineFail (Val × Nat)}
    (hok : shapeOk true shape = true) (h : Reads shape buf 0 r) : engineDecode shape buf 0 = r :=
  engineDecode_eq_of_leftOf (decodeShape_of_reads h true hok) (reads_endsWithin h (Nat.zero_le _))

/-- Settles O12: the outcome that the rules derive is the engine's, and there is one; the bytes of a value are those its
decoding used. -/
theorem engineDecodesValuesOfTheShape : Obligations.EngineDecodesValuesOfTheShape := by
  refine ⟨fun table buf r htable => ⟨?_, engineDecode_of_reads htable⟩, fun table buf v used h =>
    ⟨engineDecode_hasShape _ buf v used h, engineDecode_zero_ok h⟩⟩
  rintro rfl
  obtain ⟨r, hr⟩ := reads_total _ true htable buf 0
  rwa [engineDecode_of_reads htable hr]

end Sys2Proof.Machine
end

section
/-! The field primitives against the formulas of R150 to R162: nibbles, big-endian integers, and the two kinds of field
with their faults in order. -/

namespace Sys2Proof.Machine

open Stated

/-! ### Nibbles and integers -/

/-- Settles O5: a byte is its two nibbles, the first-named one high. -/
theorem splitPackInverse : Obligations.SplitPackInverse := by
  refine ⟨fun high low => ⟨?_, pack_eq_nibbles high low⟩, fun b => ?_⟩
  · rw [pack_eq_nibbles, split_nibbles]
  · rw [pack_eq_nibbles, nibbles_split]

/-- Settles O6: the fold is the sum, the recursion is the formula of the bytes, and reading undoes writing. -/
theorem bigEndianInverse : Obligations.BigEndianInverse := by
  refine ⟨fun bs => ⟨(bigEndian_eq_be bs).symm, be_lt bs, ?_⟩, fun v n => ⟨bytesBe_eq_bytesOf v n, fun hv => ?_⟩⟩
  · rw [bytesBe_eq_bytesOf, bytesOf_be]
  · rw [bytesBe_eq_bytesOf, be_bytesOf hv]

/-! ### Fields -/

/-- The two bytes of a 16-bit value, high byte first (R161). -/
theorem bytesBe_half (v : Half) : bytesBe v.toNat 2 = [v.extractLsb' 8 8, v.extractLsb' 0 8] := by
  simp only [bytesBe, Nat.pow_one, Nat.pow_zero, Nat.div_one, List.cons.injEq, and_true]
  constructor <;> apply BitVec.eq_of_toNat_eq <;> simp [BitVec.extractLsb'_toNat, Nat.shiftRight_eq_div_pow]

/-- `ReadVar(W)` judges the width, then needs the bytes, then gives their integer (R155). -/
theorem readVar_eq {α : Type} (w : Nat) (bs : Bytes) (k : Word → Bytes → ReadResult α) :
    readVar w bs k =
      if legalWidth w = false then .fail (.unexpectedPayloadType w) bs
      else if bs.length < w then .short bs
      else k (BitVec.ofNat 32 (bigEndian (bs.take w))) (bs.drop w) := by
  cases hw : legalWidth w with
  | false => exact checkWidth_illegal w bs _ hw
  | true =>
    rw [readVar, checkWidth_legal w bs _ hw, bigEndian_eq_be]
    rfl

/-- `WriteVar(W, v)` judges the width, then the fit, then writes the bytes of the value (R154). -/
theorem writeVar_eq (c : Params) (w : Nat) (v : Word) (snk : Bytes) (k : Bytes → WriteResult) :
    writeVar c w v snk k =
      if legalWidth w = false then .fail (.unexpectedPayloadType w) snk
      else if 256 ^ w ≤ v.toNat then .fail (.encodingError .none) snk
      else snkWrite c (bytesOf v.toNat w) snk k := by
  rw [writeVar, bytesBe_eq_bytesOf, requireWidth]
  cases legalWidth w <;> rfl

/-- A value of a legal width it fits is appended to a sink without a capacity (R154). -/
theorem writeVar_unbounded {c : Params} {w : Nat} {v : Word} (hfits : fits w v = true) (hc : c.snkCap = none)
    (snk : Bytes) (k : Bytes → WriteResult) : writeVar c w v snk k = k (snk ++ bytesOf v.toNat w) := by
  simp only [fits, Bool.and_eq_true, decide_eq_true_eq] at hfits
  obtain ⟨hw, hv⟩ := hfits
  rw [writeVar_eq, if_neg (by simp [hw]), if_neg (by omega), snkWrite_unbounded c _ snk k hc]

theorem legalWidth_eq_false_iff (w : Nat) : legalWidth w = false ↔ ¬ (w = 1 ∨ w = 2 ∨ w = 4) := by
  rw [← legalWidth_iff, Bool.not_eq_true]

/-- Settles O8: the equation of each field, read and written. -/
theorem fieldPrimitives : Obligations.FieldPrimitives := by
  refine ⟨fun c v snk k => ?_, fun high low bs k => ?_, fun bs k hcut => srcRead_short 2 bs _ hcut,
    fun w bs k => ?_, fun c w v snk k => ?_⟩
  · rw [writeU16, bytesBe_half]
  · rw [readU16_cons, half_eq_append]
  · simp only [readVar_eq, legalWidth_eq_false_iff]
  · simp only [writeVar_eq, legalWidth_eq_false_iff]

/-- Settles O7: the bytes of a value that fits are read back as the value, and bytes of a legal width are those of the
word they give. -/
theorem variableWidthRoundTrip : Obligations.VariableWidthRoundTrip := by
  refine ⟨fun c w v snk tail hw hv hc => ?_, fun c bs tail snk hw hc => ?_⟩
  · have hfits : fits w v = true := by simp [fits, (legalWidth_iff w).mpr hw, hv]
    exact ⟨bytesOf v.toNat w, writeVar_unbounded hfits hc snk _, bytesOf_length _ _, readVar_bytesOf hfits tail⟩
  · have hlegal := (legalWidth_iff bs.length).mpr hw
    refine ⟨BitVec.ofNat 32 (be bs), fun k => readVar_append _ bs tail k hlegal rfl, ?_⟩
    rw [writeVar_unbounded (fits_word hlegal) hc, bytesOf_word hlegal]

end Sys2Proof.Machine
end

section
/-! DECODE of a payload that a check rejects: the length before anything is read, then the widths, then the length the
widths imply (R153, R157, R220 to R232). -/

namespace Sys2Proof.Machine

open Stated

/-! ### The DECODE that a check ends -/

/-- What a fault leaves in ERR, its text aside (R37, R261). -/
def CodecError.RecordsAs (e : CodecError) (kind : ErrKind) (cause : Cause) (value expected : Option Nat) : Prop :=
  ∀ text, (e.record text).kind = kind ∧ (e.record text).cause = cause ∧
    (e.record text).value = value.map (BitVec.ofNat 32) ∧ (e.record text).expected = expected.map (BitVec.ofNat 32)

theorem recordsAs_length (value expected : Nat) :
    (CodecError.payloadLengthTooShort value expected).RecordsAs .payloadLengthTooShort .none (some value)
      (some expected) := fun _ => ⟨rfl, rfl, rfl, rfl⟩

theorem recordsAs_width (w : Nat) :
    (CodecError.unexpectedPayloadType w).RecordsAs .unexpectedPayloadType .none (some w) none :=
  fun _ => ⟨rfl, rfl, rfl, rfl⟩

theorem recordsAs_encoding (cause : Cause) :
    (CodecError.encodingError cause).RecordsAs .encodingError cause none none := fun _ => ⟨rfl, rfl, rfl, rfl⟩

/-- A step that raises the fault of a check after `n` bytes it was given ends as `decodeFaults` says (R69). -/
theorem decodeFaults_of_failDecode {s u : State} {plen : Len} {rest : List HostMove} {e : CodecError} {n : Nat}
    {kind : ErrKind} {cause : Cause} {value expected : Option Nat} (hu : Entered s plen rest u)
    (ht : step s = .next (failDecode e n u)) (hn : n ≤ u.window.length) (he : e.RecordsAs kind cause value expected) :
    decodeFaults s plen kind cause value expected n := by
  obtain ⟨hkind, hcause, hvalue, hexpected⟩ := he (Config.freeText u.draws)
  have hwindow := hu.window_length
  have hbounds := drawBetween_bounds _ _ (Config.freeCount u.draws) (Nat.add_le_add_left hn u.src.pos)
  simp only [hu.src] at hbounds
  refine ⟨_, _, ht, rfl, rfl, rfl, rfl, hkind, hcause, hvalue, hexpected, by simp [hu.src], ?_, ?_, hu.snk, hu.params⟩
  all_goals simp only [failDecode_src, hu.src]; omega

/-- A check that ends the payload decoder behind the bytes `head`, whatever is left within PLEN, ends the DECODE in its
fault, with the SID and `head` taken. -/
theorem decodeFaults_of_fail {s : State} {plen : Len} {sid : Byte} {head tail : Bytes} {e : CodecError} {kind : ErrKind}
    {cause : Cause} {value expected : Option Nat} (hstarts : decodeStarts s plen sid)
    (hrem : remaining s = sid :: (head ++ tail)) (hhead : head.length < plen.toNat)
    (hfail : ∀ left, decodeKind s.params (plen.toNat - 1) sid (head ++ left) (kindOfSid sid) = .fail e left)
    (he : e.RecordsAs kind cause value expected) :
    decodeFaults s plen kind cause value expected (1 + head.length) := by
  obtain ⟨rest, -, h, -, hz⟩ := hstarts
  have hl := len_sub_one hz
  have hgiven : s.src.remaining.take plen.toNat = sid :: (head ++ tail.take (plen.toNat - 1 - head.length)) := by
    change (remaining s).take _ = _
    rw [hrem, ← hl, List.take_succ_cons, List.take_append, List.take_of_length_le (by omega), Nat.add_sub_cancel]
  obtain ⟨buf, hrun⟩ := step_decode_run h hz hgiven
  have hu := entered_dispatched s plen rest sid buf
  have hwindow := hu.window_length
  rw [← List.length_take, hgiven, List.length_cons, List.length_append] at hwindow
  rw [decodePayload_instrOf, show (plen - 1).toNat = plen.toNat - 1 by omega, hfail, endDecode, List.length_append,
    Nat.add_sub_cancel] at hrun
  exact decodeFaults_of_failDecode hu hrun (by omega) he

/-- The same for a check before anything but the SID is read. -/
theorem decodeFaults_before_reading {s : State} {plen : Len} {sid : Byte} {e : CodecError} {kind : ErrKind}
    {cause : Cause} {value expected : Option Nat} (hstarts : decodeStarts s plen sid)
    (hfail : ∀ left, decodeKind s.params (plen.toNat - 1) sid left (kindOfSid sid) = .fail e left)
    (he : e.RecordsAs kind cause value expected) : decodeFaults s plen kind cause value expected 1 := by
  obtain ⟨rest, more, h, hrem, hz⟩ := hstarts
  have hl := len_sub_one hz
  exact decodeFaults_of_fail (head := []) ⟨rest, more, h, hrem, hz⟩ hrem (by rw [List.length_nil]; omega) hfail he

/-! ### The length before anything is read -/

/-- Settles O29: the exact check is the first of the four decoders. -/
theorem fixedShapesRejectOtherLengths : Obligations.FixedShapesRejectOtherLengths := by
  intro s plen sid n hsid hstarts hn
  refine decodeFaults_before_reading hstarts (fun left => ?_) (recordsAs_length _ n)
  simp only [List.mem_cons, Prod.mk.injEq, List.not_mem_nil, or_false] at hsid
  obtain ⟨rfl, rfl⟩ | ⟨rfl, rfl⟩ | ⟨rfl, rfl⟩ | ⟨rfl, rfl⟩ := hsid
  all_goals exact checkExact_ne _ _ _ _ hn

/-- Settles O30: the minimum check is the first of the seven decoders. -/
theorem shortLengthsFault : Obligations.ShortLengthsFault := by
  intro s plen sid n hsid hstarts hn
  refine decodeFaults_before_reading hstarts (fun left => ?_) (recordsAs_length _ n)
  simp only [List.mem_cons, Prod.mk.injEq, List.not_mem_nil, or_false] at hsid
  obtain ⟨rfl, rfl⟩ | ⟨rfl, rfl⟩ | ⟨rfl, rfl⟩ | ⟨rfl, rfl⟩ | ⟨rfl, rfl⟩ | ⟨rfl, rfl⟩ | ⟨rfl, rfl⟩ := hsid
  all_goals exact checkMin_lt _ _ _ _ hn

/-! ### RequestDownload -/

section
variable {c : Params} {l : Nat}

/-- The decoder of R220 with the two control bytes read: the checks that are left to do. -/
theorem decodeRequestDownloadReq_controls (hl : 2 ≤ l) (methodByte : Byte) (sizeBytes addrBytes : Nibble)
    (left : Bytes) :
    ∃ r, decodeRequestDownloadReq c l (methodByte :: nibbles sizeBytes addrBytes :: left) =
      checkWidth addrBytes.toNat left (checkWidth sizeBytes.toNat left
        (checkExact l (2 + addrBytes.toNat + sizeBytes.toNat) left r)) := by
  rw [decodeRequestDownloadReq, checkMin_le _ _ _ _ hl, readByte_cons, readByte_cons, split_nibbles]
  exact ⟨_, rfl⟩

/-- The decoder of R222 with the descriptor read. -/
theorem decodeRequestDownloadRsp_descriptor (hl : 1 ≤ l) (blockBytes low : Nibble) (left : Bytes) :
    ∃ r, decodeRequestDownloadRsp c l (nibbles blockBytes low :: left) =
      lowNibbleRule c low left (checkWidth blockBytes.toNat left (checkExact l (1 + blockBytes.toNat) left r)) := by
  rw [decodeRequestDownloadRsp, checkMin_le _ _ _ _ hl, readByte_cons, split_nibbles]
  exact ⟨_, rfl⟩

theorem lowNibbleRule_rejects {α : Type} {low : Nibble} (hc : c.rdRspLowNibble = .reject) (hlow : low ≠ 0) (bs : Bytes)
    (r : ReadResult α) : lowNibbleRule c low bs r = .fail (.encodingError .none) bs :=
  if_pos ⟨hc, hlow⟩

theorem lowNibbleRule_accepts {α : Type} {low : Nibble} (h : c.rdRspLowNibble = .ignore ∨ low = 0) (bs : Bytes)
    (r : ReadResult α) : lowNibbleRule c low bs r = r := by
  refine if_neg fun ⟨hc, hlow⟩ => ?_
  obtain hignore | hzero := h
  · cases hc.symm.trans hignore
  · exact hlow hzero

end

section
variable {s : State} {plen : Len} {more : Bytes} {e : CodecError} {kind : ErrKind} {cause : Cause}
  {value expected : Option Nat}

/-- The first of these checks to fault ends the DECODE, with three bytes taken (R220). -/
theorem decodeFaults_of_controls {methodByte : Byte} {sizeBytes addrBytes : Nibble} (hstarts : decodeStarts s plen 0x34)
    (hrem : remaining s = 0x34 :: methodByte :: nibbles sizeBytes addrBytes :: more) (hplen : 3 ≤ plen.toNat)
    (hfail : ∀ left (r : ReadResult Message), checkWidth addrBytes.toNat left (checkWidth sizeBytes.toNat left
      (checkExact (plen.toNat - 1) (2 + addrBytes.toNat + sizeBytes.toNat) left r)) = .fail e left)
    (he : e.RecordsAs kind cause value expected) : decodeFaults s plen kind cause value expected 3 := by
  refine decodeFaults_of_fail (head := [methodByte, nibbles sizeBytes addrBytes]) hstarts hrem hplen (fun left => ?_) he
  obtain ⟨r, hr⟩ := decodeRequestDownloadReq_controls (c := s.params) (l := plen.toNat - 1) (by omega) methodByte
    sizeBytes addrBytes left
  exact hr.trans (hfail left r)

/-- The same with two bytes taken (R222). -/
theorem decodeFaults_of_descriptor {blockBytes low : Nibble} (hstarts : decodeStarts s plen 0x74)
    (hrem : remaining s = 0x74 :: nibbles blockBytes low :: more) (hplen : 2 ≤ plen.toNat)
    (hfail : ∀ left (r : ReadResult Message), lowNibbleRule s.params low left (checkWidth blockBytes.toNat left
      (checkExact (plen.toNat - 1) (1 + blockBytes.toNat) left r)) = .fail e left)
    (he : e.RecordsAs kind cause value expected) : decodeFaults s plen kind cause value expected 2 := by
  refine decodeFaults_of_fail (head := [nibbles blockBytes low]) hstarts hrem hplen (fun left => ?_) he
  obtain ⟨r, hr⟩ := decodeRequestDownloadRsp_descriptor (c := s.params) (l := plen.toNat - 1) (by omega) blockBytes low
    left
  exact hr.trans (hfail left r)

end

/-- Settles O32: the address width, then the size width, then the length they imply. -/
theorem requestDownloadReqFaults : Obligations.RequestDownloadReqFaults := by
  intro s plen methodByte sizeBytes addrBytes more hstarts hrem hplen
  refine ⟨fun ha => ?_, fun ha hs => ?_, fun ha hs hl => ?_⟩
  · exact decodeFaults_of_controls hstarts hrem hplen (fun _ _ => checkWidth_illegal _ _ _ ha) (recordsAs_width _)
  · refine decodeFaults_of_controls hstarts hrem hplen (fun _ _ => ?_) (recordsAs_width _)
    rw [checkWidth_legal _ _ _ ha, checkWidth_illegal _ _ _ hs]
  · refine decodeFaults_of_controls hstarts hrem hplen (fun _ _ => ?_) (recordsAs_length _ _)
    rw [checkWidth_legal _ _ _ ha, checkWidth_legal _ _ _ hs, checkExact_ne _ _ _ _ hl]

/-- Settles O33: the low nibble where it is rejected, then the width, then the length it implies. -/
theorem requestDownloadRspFaults : Obligations.RequestDownloadRspFaults := by
  intro s plen blockBytes low more hstarts hrem hplen
  refine ⟨fun hc hlow => ?_, fun hlow hw => ?_, fun hlow hw hl => ?_⟩
  · exact decodeFaults_of_descriptor hstarts hrem hplen (fun _ _ => lowNibbleRule_rejects hc hlow _ _)
      (recordsAs_encoding _)
  · refine decodeFaults_of_descriptor hstarts hrem hplen (fun _ _ => ?_) (recordsAs_width _)
    rw [lowNibbleRule_accepts hlow, checkWidth_illegal _ _ _ hw]
  · refine decodeFaults_of_descriptor hstarts hrem hplen (fun _ _ => ?_) (recordsAs_length _ _)
    rw [lowNibbleRule_accepts hlow, checkWidth_legal _ _ _ hw, checkExact_ne _ _ _ _ hl]

/-! ### The size group of RequestFileTransfer -/

/-- The method byte, where the mode carries it, is read into fields of the same mode (R230). -/
theorem readMethod_append {c : Params} {f : FileTransfer} {method : Bytes}
    (h : method.length = if hasMethod c f.mode then 1 else 0) (more : Bytes)
    (k : FileTransfer → Bytes → ReadResult Message) :
    ∃ f', f'.mode = f.mode ∧ readMethod c f (method ++ more) k = k f' more := by
  unfold readMethod
  split
  · next hm =>
    rw [if_pos hm] at h
    obtain ⟨b, rfl⟩ := List.length_eq_one_iff.mp h
    exact ⟨{ f with compression := (split b).1, encryption := (split b).2 }, rfl, readByte_cons b more _⟩
  · next hm =>
    rw [if_neg hm] at h
    obtain rfl := List.length_eq_zero_iff.mp h
    exact ⟨f, rfl, rfl⟩

/-- The bytes before the width byte of the size group, read without a fault: a legal mode that carries the group, the
path length, the path and the method byte, within the declared length (R230, R232). -/
structure SizeGroupReached (c : Params) (l : Nat) (mode high low : Byte) (path method : Bytes) : Prop where
  legal : legalMode mode = true
  carries : carriesSize c mode = true
  pathLength : path.length = high.toNat * 256 + low.toNat
  utf8 : validUtf8 path = true
  methodLength : method.length = if carriesMethod c mode then 1 else 0
  declared : 4 + path.length + method.length ≤ l

theorem fixedPart_of_sizeGroupReached {c : Params} {l : Nat} {mode high low : Byte} {path method : Bytes}
    (h : SizeGroupReached c l mode high low path method) :
    fixedPart c mode path.length = 4 + path.length + method.length := by
  rw [fixedPart_eq c h.legal, if_pos h.carries, h.methodLength]
  omega

/-- The decoder of R230 with the width byte read: the checks that are left to do. -/
theorem decodeFileTransfer_width {c : Params} {l : Nat} {mode high low : Byte} {path method : Bytes}
    (h : SizeGroupReached c l mode high low path method) (make : FileTransfer → Message) (width : Byte) (left : Bytes) :
    ∃ r, decodeFileTransfer make c l (mode :: high :: low :: (path ++ (method ++ width :: left))) =
      checkWidth width.toNat left
        (checkExact l (4 + path.length + method.length + 2 * width.toNat) left r) := by
  have hfixed := fixedPart_of_sizeGroupReached h
  obtain ⟨hmode, hsize, hpath, hutf8, hmethod, hl⟩ := h
  have hpathLength : (BitVec.ofNat 16 (high.toNat * 256 + low.toNat)).toNat = path.length := by
    rw [BitVec.toNat_ofNat]
    omega
  rw [← hasMethod_eq_carriesMethod c hmode] at hmethod
  obtain ⟨f, hf, hread⟩ := readMethod_append (c := c)
    (f := { fileTransferDefault with mode := mode, path := path }) hmethod (width :: left)
    fun f rest => readSizes c l (fixedPart c mode path.length) f rest fun f rest => .ok (make f) rest
  rw [decodeFileTransfer, checkMin_le _ _ _ _ (by omega), readByte_cons, checkMode, if_pos hmode, readU16_cons,
    hpathLength, checkFixedPart_accepts hmode (by rw [if_pos hsize]; omega), srcRead_append _ path _ _ rfl, checkUtf8,
    if_pos hutf8, hread, readSizes, hf, hasSize_eq_carriesSize c hmode, if_pos hsize, readByte_cons, hfixed]
  exact ⟨_, rfl⟩

/-- The first of these checks to fault ends the DECODE in both directions (R230, R231). -/
theorem decodeFaults_of_sizeGroup {s : State} {plen : Len} {sid mode high low width : Byte} {path method after : Bytes}
    {e : CodecError} {kind : ErrKind} {cause : Cause} {value expected : Option Nat} (hsid : sid = 0x38 ∨ sid = 0x78)
    (hstarts : decodeStarts s plen sid)
    (h : SizeGroupReached s.params (plen.toNat - 1) mode high low path method)
    (hrem : remaining s = sid :: mode :: high :: low :: (path ++ method ++ width :: after))
    (hfail : ∀ left (r : ReadResult Message), checkWidth width.toNat left
      (checkExact (plen.toNat - 1) (4 + path.length + method.length + 2 * width.toNat) left r) = .fail e left)
    (he : e.RecordsAs kind cause value expected) :
    decodeFaults s plen kind cause value expected (1 + (4 + path.length + method.length)) := by
  have hdeclared := h.declared
  have hlen : (mode :: high :: low :: (path ++ method ++ [width])).length = 4 + path.length + method.length := by
    simp only [List.length_cons, List.length_append, List.length_nil]
    omega
  rw [← hlen]
  refine decodeFaults_of_fail (tail := after) hstarts (by simp [hrem]) (by omega) (fun left => ?_) he
  simp only [List.cons_append, List.append_assoc, List.nil_append]
  obtain rfl | rfl := hsid
  · obtain ⟨r, hr⟩ := decodeFileTransfer_width h .fileTransferReq width left
    exact hr.trans (hfail left r)
  · obtain ⟨r, hr⟩ := decodeFileTransfer_width h .fileTransferRsp width left
    exact hr.trans (hfail left r)

/-- Settles O35: the width, then the length it implies. -/
theorem fileTransferSizeGroupFaults : Obligations.FileTransferSizeGroupFaults := by
  intro s plen sid mode high low path method after width hsid hstarts hone hfive hsize hpath hutf8 hmethod hrem hplen n
  have h : SizeGroupReached s.params (plen.toNat - 1) mode high low path method :=
    ⟨by simp [legalMode, hone, hfive], hsize, hpath, hutf8, hmethod, by omega⟩
  refine ⟨fun hw => ?_, fun hw hl => ?_⟩
  · exact decodeFaults_of_sizeGroup hsid hstarts h hrem (fun _ _ => checkWidth_illegal _ _ _ hw) (recordsAs_width _)
  · refine decodeFaults_of_sizeGroup hsid hstarts h hrem (fun _ _ => ?_) (recordsAs_length _ _)
    rw [checkWidth_legal _ _ _ hw, checkExact_ne _ _ _ _ hl]

end Sys2Proof.Machine
end

section
/-! UnexpectedPayloadType is the fault of a width check, and only RequestDownload and RequestFileTransfer have widths
(R153, R262, R267). -/

namespace Sys2Proof.Machine

open Stated

/-- The kinds with variable-width fields (R153). -/
def HasWidths (k : Kind) : Prop :=
  k = .requestDownloadReq ∨ k = .requestDownloadRsp ∨ k = .fileTransferReq ∨ k = .fileTransferRsp

/-- A fault that, when it is UnexpectedPayloadType, is that of a width byte or nibble that is not 1, 2 or 4, where
`widths` allows it. -/
def CodecError.WidthOnly (widths : Prop) : CodecError → Prop
  | .unexpectedPayloadType w => widths ∧ w < 256 ∧ legalWidth w = false
  | _ => True

/-! ### Decoding -/

/-- Whatever fault the reader raises is such a fault. -/
def ReadResult.WidthOnly {α : Type} (widths : Prop) : ReadResult α → Prop
  | .fail e _ => e.WidthOnly widths
  | _ => True

section
variable {α : Type} {widths : Prop} {c : Params} {l n w : Nat} {bs : Bytes} {r : ReadResult α}

theorem srcRead_widthOnly {k : Bytes → Bytes → ReadResult α} (hk : ∀ v rest, (k v rest).WidthOnly widths) :
    (srcRead n bs k).WidthOnly widths := by
  unfold srcRead
  split
  · trivial
  · exact hk _ _

theorem readTrailing_widthOnly {k : Bytes → Bytes → ReadResult α} (hk : ∀ v rest, (k v rest).WidthOnly widths) :
    (readTrailing c n bs k).WidthOnly widths := by
  unfold readTrailing
  split
  · trivial
  · exact srcRead_widthOnly hk

theorem checkMin_widthOnly (hr : r.WidthOnly widths) : (checkMin l n bs r).WidthOnly widths := by
  unfold checkMin
  split
  · trivial
  · exact hr

theorem checkExact_widthOnly (hr : r.WidthOnly widths) : (checkExact l n bs r).WidthOnly widths := by
  unfold checkExact
  split
  · trivial
  · exact hr

/-- The one check that raises UnexpectedPayloadType (R153). -/
theorem checkWidth_widthOnly (hwidths : widths) (hw : w < 256) (hr : r.WidthOnly widths) :
    (checkWidth w bs r).WidthOnly widths := by
  unfold checkWidth
  split
  · exact hr
  · next h => exact ⟨hwidths, hw, by simpa using h⟩

theorem readVar_widthOnly {k : Word → Bytes → ReadResult α} (hwidths : widths) (hw : w < 256)
    (hk : ∀ v rest, (k v rest).WidthOnly widths) : (readVar w bs k).WidthOnly widths :=
  checkWidth_widthOnly hwidths hw <| srcRead_widthOnly fun _ _ => hk _ _

theorem lowNibbleRule_widthOnly {low : Nibble} (hr : r.WidthOnly widths) :
    (lowNibbleRule c low bs r).WidthOnly widths := by
  unfold lowNibbleRule
  split
  · trivial
  · exact hr

theorem checkMode_widthOnly {mode : Byte} (hr : r.WidthOnly widths) : (checkMode mode bs r).WidthOnly widths := by
  unfold checkMode
  split
  · exact hr
  · trivial

theorem checkUtf8_widthOnly {path : Bytes} (hr : r.WidthOnly widths) : (checkUtf8 path bs r).WidthOnly widths := by
  unfold checkUtf8
  split
  · exact hr
  · trivial

theorem checkFixedPart_widthOnly {mode : Byte} (hr : r.WidthOnly widths) :
    (checkFixedPart c mode l n bs r).WidthOnly widths := by
  unfold checkFixedPart
  split
  · exact checkMin_widthOnly hr
  · exact checkExact_widthOnly hr

theorem readMethod_widthOnly {f : FileTransfer} {k : FileTransfer → Bytes → ReadResult Message}
    (hk : ∀ f rest, (k f rest).WidthOnly widths) : (readMethod c f bs k).WidthOnly widths := by
  unfold readMethod
  split
  · exact srcRead_widthOnly fun _ _ => hk _ _
  · exact hk f bs

theorem readSizes_widthOnly {f : FileTransfer} {k : FileTransfer → Bytes → ReadResult Message} (hwidths : widths)
    (hk : ∀ f rest, (k f rest).WidthOnly widths) : (readSizes c l n f bs k).WidthOnly widths := by
  unfold readSizes
  split
  · exact srcRead_widthOnly fun v _ => checkWidth_widthOnly hwidths (v.headD 0).isLt <| checkExact_widthOnly <|
      readVar_widthOnly hwidths (v.headD 0).isLt fun _ _ => readVar_widthOnly hwidths (v.headD 0).isLt fun _ _ => hk _ _
  · exact hk f bs

/-- A width in a nibble is below the bound of a byte. -/
theorem nibble_lt (x : Nibble) : x.toNat < 256 := Nat.lt_trans x.isLt (by decide)

theorem decodeDid_widthOnly (make : Half → Message) : (decodeDid make l bs).WidthOnly widths :=
  checkExact_widthOnly <| srcRead_widthOnly fun _ _ => trivial

theorem decodeDidData_widthOnly (make : Half → Bytes → Message) : (decodeDidData make c l bs).WidthOnly widths :=
  checkMin_widthOnly <| srcRead_widthOnly fun _ _ => readTrailing_widthOnly fun _ _ => trivial

theorem decodeDtc_widthOnly (table : Entries) (make : Val → Message) :
    (decodeDtc table make l bs).WidthOnly widths := by
  refine srcRead_widthOnly fun buf rest => ?_
  split
  · trivial
  · trivial
  · split <;> trivial

theorem decodeRequestDownloadReq_widthOnly (hwidths : widths) :
    (decodeRequestDownloadReq c l bs).WidthOnly widths :=
  checkMin_widthOnly <| srcRead_widthOnly fun _ _ => srcRead_widthOnly fun _ _ =>
    checkWidth_widthOnly hwidths (nibble_lt _) <| checkWidth_widthOnly hwidths (nibble_lt _) <| checkExact_widthOnly <|
    readVar_widthOnly hwidths (nibble_lt _) fun _ _ => readVar_widthOnly hwidths (nibble_lt _) fun _ _ => trivial

theorem decodeRequestDownloadRsp_widthOnly (hwidths : widths) :
    (decodeRequestDownloadRsp c l bs).WidthOnly widths :=
  checkMin_widthOnly <| srcRead_widthOnly fun _ _ => lowNibbleRule_widthOnly <|
    checkWidth_widthOnly hwidths (nibble_lt _) <| checkExact_widthOnly <|
    readVar_widthOnly hwidths (nibble_lt _) fun _ _ => trivial

theorem decodeFileTransfer_widthOnly (hwidths : widths) (make : FileTransfer → Message) :
    (decodeFileTransfer make c l bs).WidthOnly widths :=
  checkMin_widthOnly <| srcRead_widthOnly fun _ _ => checkMode_widthOnly <| srcRead_widthOnly fun _ _ =>
    checkFixedPart_widthOnly <| srcRead_widthOnly fun _ _ => checkUtf8_widthOnly <| readMethod_widthOnly fun _ _ =>
    readSizes_widthOnly hwidths fun _ _ => trivial

theorem decodeTransferExit_widthOnly (make : Bytes → Message) : (decodeTransferExit make c l bs).WidthOnly widths :=
  checkMin_widthOnly <| readTrailing_widthOnly fun _ _ => trivial

end

/-- Only the decoders of the kinds with widths check one. -/
theorem decodeKind_widthOnly (c : Params) (l : Nat) (sid : Byte) (bs : Bytes) (k : Kind) :
    (decodeKind c l sid bs k).WidthOnly (HasWidths k) := by
  cases k with
  | readDidReq | writeDidRsp => exact decodeDid_widthOnly _
  | readDidRsp | writeDidReq => exact decodeDidData_widthOnly _
  | readDtcReq =>
    simp only [decodeKind, decodeReadDtcReq]
    split
    · exact decodeDtc_widthOnly _ _
    · trivial
  | readDtcRsp =>
    simp only [decodeKind, decodeReadDtcRsp]
    split
    · exact decodeDtc_widthOnly _ _
    · trivial
  | requestDownloadReq => exact decodeRequestDownloadReq_widthOnly (c := c) (by simp [HasWidths])
  | requestDownloadRsp => exact decodeRequestDownloadRsp_widthOnly (by simp [HasWidths])
  | fileTransferReq | fileTransferRsp => exact decodeFileTransfer_widthOnly (by simp [HasWidths]) _
  | transferDataReq =>
    exact checkMin_widthOnly <| srcRead_widthOnly fun _ _ => readTrailing_widthOnly fun _ _ => trivial
  | transferDataRsp => exact checkExact_widthOnly <| srcRead_widthOnly fun _ _ => trivial
  | transferExitReq | transferExitRsp => exact decodeTransferExit_widthOnly _
  | negativeResponse =>
    exact checkExact_widthOnly <| srcRead_widthOnly fun _ _ => srcRead_widthOnly fun _ _ => trivial
  | raw => exact readTrailing_widthOnly fun _ _ => trivial

/-! ### Encoding -/

/-- Whatever fault the writes raise is such a fault. -/
def WriteResult.WidthOnly (widths : Prop) : WriteResult → Prop
  | .fail e _ => e.WidthOnly widths
  | _ => True

section
variable {widths : Prop} {c : Params} {bs snk : Bytes} {w n : Nat} {r : WriteResult} {k : Bytes → WriteResult}

theorem ok_widthOnly (snk : Bytes) : (WriteResult.ok snk).WidthOnly widths := trivial

theorem snkWrite_widthOnly (hk : ∀ mid, (k mid).WidthOnly widths) : (snkWrite c bs snk k).WidthOnly widths := by
  unfold snkWrite
  split
  · trivial
  · exact hk _

/-- The one check of ENCODE that raises UnexpectedPayloadType (R153). -/
theorem requireWidth_widthOnly (hwidths : widths) (hw : w < 256) (hr : r.WidthOnly widths) :
    (requireWidth w snk r).WidthOnly widths := by
  unfold requireWidth
  split
  · exact hr
  · next h => exact ⟨hwidths, hw, by simpa using h⟩

theorem requireFits_widthOnly (hr : r.WidthOnly widths) : (requireFits w n snk r).WidthOnly widths := by
  unfold requireFits
  split
  · trivial
  · exact hr

theorem requireOk_widthOnly {ok : Bool} (hr : r.WidthOnly widths) : (requireOk ok snk r).WidthOnly widths := by
  unfold requireOk
  split
  · exact hr
  · trivial

theorem writeVar_widthOnly {v : Word} (hwidths : widths) (hw : w < 256) (hk : ∀ mid, (k mid).WidthOnly widths) :
    (writeVar c w v snk k).WidthOnly widths :=
  requireWidth_widthOnly hwidths hw <| requireFits_widthOnly <| snkWrite_widthOnly hk

theorem writeDtc_widthOnly (table : Entries) (sub : Val) : (writeDtc c table sub snk).WidthOnly widths := by
  unfold writeDtc
  split
  · trivial
  · exact snkWrite_widthOnly ok_widthOnly

theorem writeDownload_widthOnly (hwidths : widths) (f : Download) : (writeDownload c f snk).WidthOnly widths :=
  snkWrite_widthOnly fun _ => requireWidth_widthOnly hwidths (nibble_lt _) <|
    requireWidth_widthOnly hwidths (nibble_lt _) <| snkWrite_widthOnly fun _ =>
    writeVar_widthOnly hwidths (nibble_lt _) fun _ => writeVar_widthOnly hwidths (nibble_lt _) ok_widthOnly

theorem writeBlockSize_widthOnly (hwidths : widths) (blockBytes : Nibble) (v : Word) :
    (writeBlockSize c blockBytes v snk).WidthOnly widths :=
  requireWidth_widthOnly hwidths (nibble_lt _) <| snkWrite_widthOnly fun _ =>
    writeVar_widthOnly hwidths (nibble_lt _) ok_widthOnly

theorem writeSizes_widthOnly (hwidths : widths) (f : FileTransfer) : (writeSizes c f snk).WidthOnly widths := by
  unfold writeSizes
  split
  · exact requireWidth_widthOnly hwidths f.fsizeBytes.isLt <| snkWrite_widthOnly fun _ =>
      writeVar_widthOnly hwidths f.fsizeBytes.isLt fun _ => writeVar_widthOnly hwidths f.fsizeBytes.isLt ok_widthOnly
  · trivial

theorem writeMethod_widthOnly (hwidths : widths) (f : FileTransfer) : (writeMethod c f snk).WidthOnly widths := by
  unfold writeMethod
  split
  · exact snkWrite_widthOnly fun _ => writeSizes_widthOnly hwidths f
  · exact writeSizes_widthOnly hwidths f

theorem writeFileTransfer_widthOnly (hwidths : widths) (f : FileTransfer) :
    (writeFileTransfer c f snk).WidthOnly widths :=
  requireOk_widthOnly <| snkWrite_widthOnly fun _ => requireOk_widthOnly <| requireOk_widthOnly <|
    snkWrite_widthOnly fun _ => snkWrite_widthOnly fun _ => writeMethod_widthOnly hwidths f

end

/-- Only the payload writes of the kinds with widths check one. -/
theorem writePayload_widthOnly {c : Params} (m : Message) {writes : Bytes → WriteResult}
    (hw : writePayload c m = some writes) (snk : Bytes) : (writes snk).WidthOnly (HasWidths m.kind) := by
  cases m <;> obtain rfl := Option.some.inj hw
  case readDidReq | writeDidRsp | transferDataRsp | transferExitReq | transferExitRsp | raw =>
    exact snkWrite_widthOnly ok_widthOnly
  case readDidRsp | writeDidReq | transferDataReq | negativeResponse =>
    exact snkWrite_widthOnly fun _ => snkWrite_widthOnly ok_widthOnly
  case readDtcReq sub | readDtcRsp sub =>
    split
    · exact writeDtc_widthOnly _ sub
    · trivial
  case requestDownloadReq f => exact writeDownload_widthOnly (by simp [HasWidths, Message.kind]) f
  case requestDownloadRsp w v => exact writeBlockSize_widthOnly (by simp [HasWidths, Message.kind]) w v
  case fileTransferReq f | fileTransferRsp f =>
    exact writeFileTransfer_widthOnly (by simp [HasWidths, Message.kind]) f

theorem encodeMessage_widthOnly (c : Params) (m : Message) (snk : Bytes) :
    (encodeMessage c m snk).WidthOnly (HasWidths m.kind) := by
  unfold encodeMessage
  split
  · trivial
  · next writes hw =>
    unfold writeFrame
    split
    · exact writePayload_widthOnly m hw snk
    · exact snkWrite_widthOnly (writePayload_widthOnly m hw)

/-! ### Every command -/

/-- A fault recorded as UnexpectedPayloadType is that of a width (R37, R267). -/
theorem record_of_widthOnly {widths : Prop} {e : CodecError} {text : String} (he : e.WidthOnly widths)
    (hkind : (e.record text).kind = .unexpectedPayloadType) :
    widths ∧ (∃ w : Nat, (e.record text).value = some (BitVec.ofNat 32 w) ∧ w < 256 ∧ w ≠ 1 ∧ w ≠ 2 ∧ w ≠ 4) ∧
      (e.record text).expected = none := by
  cases e with
  | unexpectedPayloadType w =>
    obtain ⟨hwidths, hlt, hillegal⟩ := he
    rw [legalWidth_eq_false_iff] at hillegal
    exact ⟨hwidths, ⟨w, rfl, hlt, by omega, by omega, by omega⟩, rfl⟩
  | io cause | payloadLengthTooShort value expected | encodingError cause => cases hkind

/-- A kind with a SID of its own is selected by that SID only (R110). -/
theorem sid_of_kindOfSid {k : Kind} {sid own : Byte} (hown : sidOf k = some own) (hk : kindOfSid sid = k) :
    sid = own := by
  subst hk
  obtain hraw | hsid := sidOf_kindOfSid sid
  · rw [hraw] at hown
    cases hown
  · exact Option.some.inj (hsid.symm.trans hown)

/-- The SIDs of the kinds with widths (R83). -/
theorem sid_of_hasWidths {sid : Byte} (h : HasWidths (kindOfSid sid)) :
    sid = 0x34 ∨ sid = 0x74 ∨ sid = 0x38 ∨ sid = 0x78 :=
  h.imp (sid_of_kindOfSid rfl) <| .imp (sid_of_kindOfSid rfl) <| .imp (sid_of_kindOfSid rfl) (sid_of_kindOfSid rfl)

/-- A DECODE raises UnexpectedPayloadType only from the payload decoder of a SID whose kind has widths. -/
theorem step_decode_widthOnly {s t : State} {plen : Len} {rest : List HostMove} {e : ErrRecord}
    (h : s.host = .decode plen :: rest) (ht : step s = .next t) (herr : t.err = some e)
    (hkind : e.kind = .unexpectedPayloadType) :
    ∃ sid more err text, remaining s = sid :: more ∧ CodecError.WidthOnly (HasWidths (kindOfSid sid)) err ∧
      e = err.record text := by
  by_cases hz : plen = 0
  · cases (step_decode_zero h hz).symm.trans ht
    cases herr
    cases hkind
  cases hrem : remaining s with
  | nil =>
    cases (step_decode_empty h hz (by rw [show s.src.remaining = [] from hrem, List.take_nil])).symm.trans ht
    cases herr
    cases hkind
  | cons sid more =>
    have hw : s.src.remaining.take plen.toNat = sid :: more.take (plen - 1).toNat := by
      rw [show s.src.remaining = sid :: more from hrem, ← len_sub_one hz, List.take_succ_cons]
    obtain ⟨buf, hrun⟩ := step_decode_run h hz hw
    have hwidth := decodeKind_widthOnly s.params (plen - 1).toNat sid (more.take (plen - 1).toNat) (kindOfSid sid)
    rw [← decodePayload_instrOf] at hwidth
    obtain ⟨m, left, -, rfl⟩ | ⟨left, -, rfl⟩ | ⟨err, left, hr, rfl⟩ :=
      (endDecode_next_iff _ _ _ t).mp (hrun.symm.trans ht)
    · cases herr
    · cases herr
      cases hkind
    · rw [hr] at hwidth
      exact ⟨sid, more, err, _, rfl, hwidth, (Option.some.inj herr).symm⟩

/-- An ENCODE raises a fault only from the writes of its message. -/
theorem step_encode_widthOnly {s t : State} {m : Message} {rest : List HostMove} {e : ErrRecord}
    (h : s.host = .encode m :: rest) (ht : step s = .next t) (herr : t.err = some e) :
    ∃ err text, CodecError.WidthOnly (HasWidths m.kind) err ∧ e = err.record text := by
  rw [step_encode s m rest h] at ht
  have hwidth := encodeMessage_widthOnly s.params m s.snk
  obtain ⟨snk, -, rfl⟩ | ⟨err, written, hfail, rfl⟩ := (endEncode_next_iff _ _ t).mp ht
  · cases herr
  · rw [show encodeMessage s.params m s.snk = _ from hfail] at hwidth
    exact ⟨err, _, hwidth, (Option.some.inj herr).symm⟩

/-- Settles O40: in both directions only a width check raises it, and UPGRADE and LENGTH end with ERR empty. -/
theorem unexpectedPayloadTypeIsAWidth : Obligations.UnexpectedPayloadTypeIsAWidth := by
  intro s t move rest e h hstart ht herr hkind
  cases move with
  | decode plen =>
    obtain ⟨sid, more, err, text, hrem, hwidth, rfl⟩ := step_decode_widthOnly h ht herr hkind
    obtain ⟨hwidths, hvalue, hexpected⟩ := record_of_widthOnly hwidth hkind
    exact ⟨hvalue, hexpected, .inl ⟨plen, sid, more, rfl, hrem, sid_of_hasWidths hwidths⟩⟩
  | encode m =>
    obtain ⟨err, text, hwidth, rfl⟩ := step_encode_widthOnly h ht herr
    obtain ⟨hwidths, hvalue, hexpected⟩ := record_of_widthOnly hwidth hkind
    exact ⟨hvalue, hexpected, .inr ⟨m, rfl, hwidths⟩⟩
  | upgrade m =>
    obtain ⟨m', rfl⟩ := upgradeRaw_next ((step_upgrade s m rest h).symm.trans ht)
    cases herr
  | length m =>
    cases (step_length s m rest h).symm.trans ht
    cases herr
  | loadSource _ | seekSource _ | loadSink _ | drainSink _ | cutSink _ => cases hstart

end Sys2Proof.Machine
end

section
/-! What DECODE returns for each SID, the fault of PLEN = 0, and UPGRADE as a DECODE of the Raw's own bytes (R172, R175,
R182, R183, R188). -/

namespace Sys2Proof.Machine

open Stated

/-! ### The fault of PLEN = 0, and the kind of what DECODE returns -/

/-- Settles O27: the length is judged before the SID is read, when the lowest and the highest position are the same. -/
theorem zeroLengthFaultsFirst : Obligations.ZeroLengthFaultsFirst := fun s rest h =>
  decodeFaults_of_failDecode (entered_begun s 0 rest) (step_decode_zero h rfl) (Nat.zero_le _) (recordsAs_length 0 1)

/-- A payload decoder that uses all its bytes keeps all of them in a Raw (R252). -/
theorem decodePayload_instrOf_ok {c : Params} {l : Nat} {sid : Byte} {payload : Bytes} {m : Message}
    (h : decodePayload c l (instrOf sid payload) = .ok m []) :
    m.kind = kindOfSid sid ∧ (kindOfSid sid = .raw → m = .raw (sid :: payload)) := by
  obtain ⟨hlen, -, hkind, hraw⟩ := decodePayload_ok h
  rw [instrOf_kind] at hkind
  rw [instrOf_kind, instrOf_sid, instrOf_payload] at hraw
  rw [instrOf_payload, List.length_nil, Nat.add_zero] at hlen
  rw [List.take_of_length_le hlen.le] at hraw
  exact ⟨hkind, hraw⟩

/-- Settles O37: the message is that of the decoder the SID selects, which has used all PLEN bytes. -/
theorem sidDecidesTheKind : Obligations.SidDecidesTheKind := by
  intro s t plen sid m hstarts ht hm
  obtain ⟨rest, more, h, hrem, hz⟩ := hstarts
  obtain ⟨sid', payload, hw, hdecode⟩ := step_decode_message h ht hm
  obtain rfl : sid = sid' := by
    rw [show s.src.remaining = sid :: more from hrem, ← len_sub_one hz, List.take_succ_cons] at hw
    exact (List.cons.inj hw).1
  obtain ⟨hkind, hraw⟩ := decodePayload_instrOf_ok hdecode
  refine ⟨hkind, fun hsid => ?_⟩
  rw [hraw ((kindOfSid_eq_raw_iff sid).mpr hsid), ← hw]
  rfl

/-! ### Raw (R188) -/

/-- The decoder of an unmapped SID is that of Raw (R175, R252). -/
theorem decodeKind_unmapped {sid : Byte} (hsid : sid ∉ mappedSids) (c : Params) (l : Nat) (payload : Bytes) :
    decodeKind c l sid payload (kindOfSid sid) = decodeRaw sid c l payload := by
  rw [(kindOfSid_eq_raw_iff sid).mpr hsid]
  rfl

theorem decodeRaw_runsOut {sid : Byte} {c : Params} {l : Nat} {payload : Bytes} (halloc : allocates c l)
    (hcut : payload.length < l) : (decodeRaw sid c l payload).RunsOut :=
  readTrailing_runsOut halloc le_rfl hcut

/-- Of all its bytes, within the allocation limit, the decoder makes the Raw that holds them. -/
theorem decodeRaw_within {sid : Byte} {c : Params} {data : Bytes} (halloc : allocates c data.length) :
    decodeRaw sid c data.length data = .ok (.raw (sid :: data)) [] := by
  rw [decodeRaw, readTrailing_within _ _ _ _ halloc, srcRead_all]

/-- A DECODE of an unmapped SID whose PLEN bytes are there returns the Raw of them. -/
theorem step_decode_unmapped {s : State} {plen : Len} {sid : Byte} {more : Bytes} {rest : List HostMove}
    (h : s.host = .decode plen :: rest) (hrem : remaining s = sid :: more) (hsid : sid ∉ mappedSids)
    (halloc : allocates s.params (plen.toNat - 1)) (hz : plen ≠ 0) (hfull : plen.toNat ≤ (sid :: more).length) :
    ∃ t, step s = .next t ∧ t.status = .ok ∧ t.msg = some (.raw ((sid :: more).take plen.toNat)) := by
  have hl := len_sub_one hz
  rw [← hl, Nat.add_sub_cancel] at halloc
  rw [← hl, List.length_cons] at hfull
  rw [← hl, List.take_succ_cons]
  have hw : s.src.remaining.take plen.toNat = sid :: more.take (plen - 1).toNat := by
    rw [show s.src.remaining = sid :: more from hrem, ← hl, List.take_succ_cons]
  have hlen : (more.take (plen - 1).toNat).length = (plen - 1).toNat := List.length_take_of_le (by omega)
  have hread := decodeRaw_within (sid := sid) (hlen.symm ▸ halloc)
  rw [hlen] at hread
  obtain ⟨buf, hrun⟩ := step_decode_run h hz hw
  rw [decodePayload_instrOf, decodeKind_unmapped hsid, hread] at hrun
  exact ⟨_, hrun, rfl, rfl⟩

/-- Settles O38: Raw has no check of its own, and its bytes are written back as every decoded message's are. -/
theorem unmappedSidNeverFaults : Obligations.UnmappedSidNeverFaults := by
  intro s plen sid more rest h hrem hsid halloc
  refine ⟨fun hz => ?_, fun hcut => ?_, fun hz hfull => ?_⟩
  · subst hz
    exact zeroLengthFaultsFirst s rest h
  · have hz : plen ≠ 0 := fun hz => by rw [hz] at hcut; exact Nat.not_lt_zero _ hcut
    refine (endsInIo_of_decodeStarts ⟨rest, more, h, hrem, hz⟩ (hrem ▸ hcut) fun more' _ hcut' => ?_).1
    rw [decodeKind_unmapped hsid]
    exact decodeRaw_runsOut halloc hcut'
  · obtain ⟨t, ht, hok, hm⟩ := step_decode_unmapped h hrem hsid halloc hz hfull
    refine ⟨t, ht, hok, hm, fun hcap => ?_⟩
    rw [← hrem] at hm ⊢
    refine decodeThenEncode s t plen _ rest h hcap ht hm fun descriptor more' hrem' => ?_
    cases hrem.symm.trans hrem'
    exact absurd (by decide) hsid

/-! ### DECODE as a function of the bytes (R171, R172) -/

/-- The message of an answer, none where there is none. -/
def ReadResult.message? : ReadResult Message → Option Message
  | .ok m _ => some m
  | .short _ => none
  | .fail _ _ => none
  | .refuse _ => none

@[simp] theorem message?_eq_some_iff (r : ReadResult Message) (m : Message) :
    r.message? = some m ↔ ∃ rest, r = .ok m rest := by
  cases r <;> simp [ReadResult.message?]

theorem decodeMessage_empty {c : Params} {src : Bytes} {plen : Nat} (hw : src.take plen = []) :
    (decodeMessage c src plen).message? = none := by
  cases plen with
  | zero => rfl
  | succ n => simp [decodeMessage, memRead, hw, decode, ReadResult.message?]

theorem decodeMessage_cons {c : Params} {src payload : Bytes} {plen : Nat} {sid : Byte}
    (hw : src.take plen = sid :: payload) :
    decodeMessage c src plen = decodePayload c (plen - 1) (instrOf sid payload) := by
  cases plen with
  | zero => cases hw
  | succ n => simp [decodeMessage, memRead, hw, decode]

/-- The message a DECODE leaves is that of the pure function of the bytes the source still holds (R171). -/
theorem step_decode_msg {s t : State} {plen : Len} {rest : List HostMove} (h : s.host = .decode plen :: rest)
    (ht : step s = .next t) : t.msg = (decodeMessage s.params s.src.remaining plen.toNat).message? := by
  by_cases hz : plen = 0
  · cases (step_decode_zero h hz).symm.trans ht
    subst hz
    rfl
  cases hw : s.src.remaining.take plen.toNat with
  | nil =>
    cases (step_decode_empty h hz hw).symm.trans ht
    exact (decodeMessage_empty hw).symm
  | cons sid payload =>
    obtain ⟨buf, hrun⟩ := step_decode_run h hz hw
    rw [decodeMessage_cons hw, ← len_sub_one hz, Nat.add_sub_cancel]
    obtain ⟨m, left, hr, rfl⟩ | ⟨left, hr, rfl⟩ | ⟨e, left, hr, rfl⟩ :=
      (endDecode_next_iff _ _ _ t).mp (hrun.symm.trans ht) <;> rw [hr] <;> rfl

/-- Of all its bytes a string decodes to a message of the kind of its SID, to a Raw only as itself (R175, R183). -/
theorem decodeMessage_all_ok {c : Params} {bytes rest : Bytes} {m : Message}
    (h : decodeMessage c bytes bytes.length = .ok m rest) :
    ∃ sid more, bytes = sid :: more ∧ m.kind = kindOfSid sid ∧ (m.kind = .raw → m = .raw bytes) := by
  cases bytes with
  | nil => cases h
  | cons sid more =>
    rw [decodeMessage_cons List.take_length, List.length_cons, Nat.add_sub_cancel] at h
    obtain ⟨hread, -⟩ := decodePayload_ok h
    rw [instrOf_payload] at hread
    obtain rfl : rest = [] := List.length_eq_zero_iff.mp (by omega)
    obtain ⟨hkind, hraw⟩ := decodePayload_instrOf_ok h
    exact ⟨sid, more, rfl, hkind, hkind ▸ hraw⟩

/-! ### UPGRADE (R182, R183) -/

/-- The message UPGRADE returns. -/
def upgraded (c : Params) : Message → Message
  | .raw bytes => (decodeMessage c bytes bytes.length).message?.getD (.raw bytes)
  | m => m

theorem upgraded_typed {m : Message} (h : m.kind ≠ .raw) (c : Params) : upgraded c m = m := by
  cases m with
  | raw bytes => exact absurd rfl h
  | _ => rfl

/-- UPGRADE leaves `upgraded` of its message in MSG, and STATUS OK. -/
theorem upgradeRaw_eq {m : Message} {s t : State} (h : upgradeRaw m s = .next t) :
    t = finishUpgrade (upgraded s.params m) s := by
  cases m with
  | raw bytes =>
    simp only [upgradeRaw] at h
    split at h <;> cases h <;> simp [upgraded, ReadResult.message?, *]
  | _ => cases h; rfl

theorem step_upgrade_eq {s t : State} {m : Message} {rest : List HostMove} (h : s.host = .upgrade m :: rest)
    (ht : step s = .next t) :
    t = finishUpgrade (upgraded s.params m) (beginMessage .upgrade m (popMove rest s)) :=
  upgradeRaw_eq ((step_upgrade s m rest h).symm.trans ht)

/-- UPGRADE of a Raw returns it, or the message its bytes decode to: one of the kind of their SID, and a Raw only where
it is the same (R175, R183). -/
theorem upgraded_raw (c : Params) (bytes : Bytes) :
    upgraded c (.raw bytes) = .raw bytes ∨
      ∃ sid more, bytes = sid :: more ∧ (upgraded c (.raw bytes)).kind = kindOfSid sid ∧
        ((upgraded c (.raw bytes)).kind = .raw → upgraded c (.raw bytes) = .raw bytes) := by
  have hdef : upgraded c (.raw bytes) = (decodeMessage c bytes bytes.length).message?.getD (.raw bytes) := rfl
  cases hr : (decodeMessage c bytes bytes.length).message? with
  | none => exact .inl (by rw [hdef, hr, Option.getD_none])
  | some m =>
    obtain ⟨rest, hok⟩ := (message?_eq_some_iff _ m).mp hr
    rw [hdef, hr, Option.getD_some]
    exact .inr (decodeMessage_all_ok hok)

/-- What UPGRADE returns as a Raw is what it was given (R183). -/
theorem upgraded_of_kind_raw {c : Params} {m : Message} (h : (upgraded c m).kind = .raw) : upgraded c m = m := by
  cases m with
  | raw bytes =>
    obtain hsame | ⟨sid, more, -, -, hraw⟩ := upgraded_raw c bytes
    · exact hsame
    · exact hraw h
  | _ => rfl

theorem upgraded_idempotent (c : Params) (m : Message) : upgraded c (upgraded c m) = upgraded c m := by
  by_cases h : (upgraded c m).kind = .raw
  · rw [upgraded_of_kind_raw h]
    exact upgraded_of_kind_raw h
  · exact upgraded_typed h c

/-- A Raw that is empty or begins with an unmapped SID has no other reading (R183 (1), (3)). -/
theorem upgraded_unmapped {bytes : Bytes} (h : ∀ sid more, bytes = sid :: more → sid ∉ mappedSids) (c : Params) :
    upgraded c (.raw bytes) = .raw bytes := by
  obtain hsame | ⟨sid, more, hbytes, hkind, hraw⟩ := upgraded_raw c bytes
  · exact hsame
  · exact hraw (hkind.trans ((kindOfSid_eq_raw_iff sid).mpr (h sid more hbytes)))

/-- Settles O49: the nested DECODE is the pure function of the Raw's bytes, which is what a DECODE of them leaves. -/
theorem upgradeIsANestedDecode : Obligations.UpgradeIsANestedDecode := by
  intro s t u bytes rest hlen h ht hu
  have hmsg := step_decode_msg rfl hu
  rw [BitVec.toNat_ofNat, Nat.mod_eq_of_lt hlen] at hmsg
  obtain rfl := step_upgrade_eq h ht
  exact ⟨rfl, rfl, rfl, rfl, by rw [hmsg]; rfl⟩

/-- Settles O50: a second UPGRADE runs under the same parameters on what the first returned. -/
theorem upgradeIsIdempotent : Obligations.UpgradeIsIdempotent := by
  intro s t m rest h ht
  obtain rfl := step_upgrade_eq h ht
  refine ⟨fun bytes hm hunmapped => ?_, fun m' u hm' hu => ?_⟩
  · rw [hm, finishUpgrade_msg, upgraded_unmapped hunmapped]
  · cases hm'
    obtain rfl := step_upgrade_eq rfl hu
    exact congrArg some (upgraded_idempotent s.params m)

end Sys2Proof.Machine
end

section
/-! The ReadDTCInformation layouts: ReportSupportedDTC under every request table, and what becomes of an engine that
fails or leaves bytes over (R211, R213 to R215, R265). -/

namespace Sys2Proof.Machine

open Stated

/-! ### The two directions -/

/-- The SID selects a direction of ReadDTCInformation, and the table is that direction's, as R211 and R132 ask (R214,
R215). -/
def DtcTable (c : Params) (sid : Byte) (table : Entries) : Prop :=
  sid = 0x19 ∧ table = c.dtcReqTable ∧ reqTableOk table = true ∨
    sid = 0x59 ∧ table = c.dtcRspTable ∧ tableOk table = true

/-- Both directions run one decoder, each over its own table (R213). -/
theorem decodeKind_dtc {c : Params} {sid : Byte} {table : Entries} (h : DtcTable c sid table) :
    ∃ make, ∀ l payload, decodeKind c l sid payload (kindOfSid sid) = decodeDtc table make l payload := by
  obtain ⟨rfl, rfl, hok⟩ | ⟨rfl, rfl, hok⟩ := h
  · exact ⟨.readDtcReq, fun _ _ => if_pos hok⟩
  · exact ⟨.readDtcRsp, fun _ _ => if_pos hok⟩

/-! ### Faults -/

/-- The fault of the codec an engine failure becomes (R265). -/
def engineFault : EngineFail → CodecError
  | .insufficientData => .io .insufficientData
  | .protocolMismatch => .encodingError .protocolMismatch

theorem decodeDtc_fails {table : Entries} {buf : Bytes} {f : EngineFail} (make : Val → Message) (rest : Bytes)
    (h : engineDecode (.union table) buf 0 = .error f) :
    decodeDtc table make buf.length (buf ++ rest) = .fail (engineFault f) rest := by
  rw [decodeDtc, srcRead_append _ buf rest _ rfl, h]
  cases f <;> rfl

theorem decodeDtc_leftOver {table : Entries} {buf : Bytes} {v : Val} {used : Nat} (make : Val → Message)
    (rest : Bytes) (h : engineDecode (.union table) buf 0 = .ok (v, used)) (hused : used ≠ buf.length) :
    decodeDtc table make buf.length (buf ++ rest) = .fail (.payloadLengthTooShort buf.length used) rest := by
  rw [decodeDtc, srcRead_append _ buf rest _ rfl, h]
  exact if_pos hused

/-- A fault of the decoder over the staged bytes ends the DECODE in either direction, with all of PLEN taken (R69). -/
theorem decodeFaults_of_dtc {s : State} {plen : Len} {sid : Byte} {table : Entries} {buf after : Bytes} {e : CodecError}
    {kind : ErrKind} {cause : Cause} {value expected : Option Nat} (hstarts : decodeStarts s plen sid)
    (htable : DtcTable s.params sid table) (hrem : remaining s = sid :: (buf ++ after))
    (hplen : plen.toNat = 1 + buf.length)
    (hfail : ∀ make left, decodeDtc table make buf.length (buf ++ left) = .fail e left)
    (he : e.RecordsAs kind cause value expected) : decodeFaults s plen kind cause value expected plen.toNat := by
  obtain ⟨make, hmake⟩ := decodeKind_dtc htable
  have hl : plen.toNat - 1 = buf.length := by omega
  rw [hplen]
  refine decodeFaults_of_fail hstarts hrem (by omega) (fun left => ?_) he
  rw [hmake, hl]
  exact hfail make left

/-- Settles O36: the engine's two failures and the bytes it leaves over; with nothing staged it asks for an index byte
that is not there. -/
theorem dtcFaults : Obligations.DtcFaults := by
  intro s plen sid table buf after hstarts htable hrem hplen
  have hshort (h : engineDecode (.union table) buf 0 = .error .insufficientData) :
      decodeFaults s plen .io .insufficientData none none plen.toNat :=
    decodeFaults_of_dtc hstarts htable hrem hplen (fun make left => decodeDtc_fails make left h)
      fun _ => ⟨rfl, rfl, rfl, rfl⟩
  refine ⟨hshort, fun h => ?_, fun v used h hused => ?_, fun hbuf => ?_⟩
  · exact decodeFaults_of_dtc hstarts htable hrem hplen (fun make left => decodeDtc_fails make left h)
      (recordsAs_encoding _)
  · exact decodeFaults_of_dtc hstarts htable hrem hplen (fun make left => decodeDtc_leftOver make left h hused)
      (recordsAs_length _ _)
  · subst hbuf
    rw [hplen] at hshort
    exact hshort rfl

/-! ### ReportSupportedDTC -/

/-- R211 puts a variant without data at index 10, so the index byte is all that is read of it. -/
theorem engineDecode_reportSupported {table : Entries} (h : reqTableOk table = true) (more : Bytes) :
    engineDecode (.union table) (0x0A :: more) 0 = .ok (.variant 0x0A .unit, 1) := by
  obtain ⟨⟨-, hentry⟩, -⟩ : (_ ∧ table.get? 10 = some ("ReportSupportedDTC", .unit)) ∧ _ := by
    simpa only [reqTableOk, Bool.and_eq_true, decide_eq_true_eq] using h
  rw [engineDecode_zero_ok_iff]
  refine ⟨more, (decodeShape_union_ok_iff _ _ _ _).mpr ⟨0x0A, more, .unit, rfl, ?_, rfl⟩, by simp⟩
  exact decodeVariant_ok_iff.mpr ⟨_, hentry, rfl⟩

/-- The row of the code point decodes as the row of its kind, with the index byte before its operand (R211). -/
theorem exec_readDtcReqReportSupported {s : State} (hcmd : s.cmd = some .decode) (rest : Bytes) :
    exec (.readDtcReqReportSupported rest) s = exec (.readDtcReq (0x0A :: rest)) s := by
  rw [exec_decode _ s hcmd, exec_decode _ s hcmd]
  rfl

/-- Settles O23: the engine takes one byte whatever follows, which is all of the payload or leaves some over. -/
theorem reportSupportedDecodes : Obligations.ReportSupportedDecodes := by
  refine ⟨fun s rest hcmd htable hl => ?_, fun s extra plen htable hstarts hrem hmore hdeclared => ?_⟩
  · rw [exec_readDtcReqReportSupported hcmd]
    obtain ⟨hreq, -⟩ := dtcDecodes s (.variant 0x0A .unit) [0x0A] rest hcmd (by rw [hl]; rfl)
    exact hreq htable (engineDecode_reportSupported htable [])
  · have hlength : (0x0A :: extra.take (plen.toNat - 2) : Bytes).length = plen.toNat - 1 := by
      rw [List.length_cons, List.length_take]
      omega
    obtain ⟨-, -, hleftOver, -⟩ := dtcFaults s plen 0x19 s.params.dtcReqTable (0x0A :: extra.take (plen.toNat - 2))
      (extra.drop (plen.toNat - 2)) hstarts (.inl ⟨rfl, rfl, htable⟩)
      (by rw [hrem, List.cons_append, List.take_append_drop]) (by omega)
    rw [← hlength]
    exact hleftOver _ 1 (engineDecode_reportSupported htable _) (by omega)

end Sys2Proof.Machine
end

section
/-! RequestDownload.rsp through DECODE and ENCODE: the low nibble of the descriptor comes back as 0 (R222, R223,
R314). -/

namespace Sys2Proof.Machine

open Stated

/-- A byte determines its two nibbles (R150). -/
theorem nibbles_inj {high low high' low' : Nibble} (h : nibbles high low = nibbles high' low') :
    high = high' ∧ low = low' := by
  simpa only [split_nibbles, Prod.mk.injEq] using congrArg split h

/-- The message of SID 0x74 has the high nibble of the descriptor as its width, and a value whose bytes are the rest of
the PLEN bytes (R222). -/
theorem step_decode_requestDownloadRsp {s t : State} {plen : Len} {blockBytes low : Nibble} {more : Bytes}
    {rest : List HostMove} {m : Message} (h : s.host = .decode plen :: rest) (hz : plen ≠ 0)
    (hrem : remaining s = 0x74 :: nibbles blockBytes low :: more) (ht : step s = .next t) (hm : t.msg = some m) :
    ∃ v, m = .requestDownloadRsp blockBytes v ∧ fits blockBytes.toNat v = true ∧
      more.take (plen.toNat - 2) = bytesOf v.toNat blockBytes.toNat := by
  obtain ⟨sid, payload, hw, hdecode⟩ := step_decode_message h ht hm
  obtain ⟨-, hwf, -⟩ := decodePayload_ok hdecode
  rw [show s.src.remaining = _ from hrem, ← len_sub_one hz, List.take_succ_cons] at hw
  obtain ⟨rfl, rfl⟩ := List.cons.inj hw
  rw [decodePayload_instrOf] at hdecode
  obtain ⟨w, v, low', rfl, hbytes⟩ := decodeRequestDownloadRsp_bytes hdecode
  rw [← len_sub_one hz]
  cases hl : (plen - 1).toNat with
  | zero =>
    rw [hl] at hbytes
    cases hbytes
  | succ n =>
    rw [hl, List.take_succ_cons, List.append_nil] at hbytes
    obtain ⟨hdescriptor, hvalue⟩ := List.cons.inj hbytes
    obtain ⟨rfl, -⟩ := nibbles_inj hdescriptor
    exact ⟨v, rfl, hwf, hvalue⟩

/-- Settles O53: ENCODE writes the descriptor from the width alone, and the value as the bytes it was read from. -/
theorem lowNibbleIsNotRetained : Obligations.LowNibbleIsNotRetained := by
  intro s t plen blockBytes low more m ⟨rest, _, h, _, hz⟩ hrem hcap ht hm
  obtain ⟨v, rfl, hfits, hvalue⟩ := step_decode_requestDownloadRsp h hz hrem ht hm
  obtain ⟨hparams, -, hsnk, -⟩ := step_decode_frame h ht
  obtain ⟨happend, -⟩ := encodeMessage_appends (c := t.params) (m := .requestDownloadRsp blockBytes v) hfits id
    trivial t.snk
  have hok := happend (by simp [WithinCap, hparams, hcap])
  refine ⟨_, step_encode_ok (s := { t with host := [.encode (.requestDownloadRsp blockBytes v)] }) rfl hok, ?_⟩
  rw [finishEncode_snk, hsnk, hvalue]
  rfl

end Sys2Proof.Machine
end

section
/-! The path check of RequestFileTransfer is the table of R235: a row is the set of its sequences, at most one row matches
given bytes, and the check takes the sequences off the front one by one. -/

namespace Sys2Proof.Machine

open Stated

/-! ### One row of the table -/

/-- The bytes are a sequence of the row: one byte for each range, within it. -/
def InUtf8Row (row : List (Nat × Nat)) (q : Bytes) : Prop :=
  List.Forall₂ (fun range b => range.1 ≤ b.toNat ∧ b.toNat ≤ range.2) row q

@[simp] theorem inUtf8Row_nil_left (q : Bytes) : InUtf8Row [] q ↔ q = [] :=
  List.forall₂_nil_left_iff

@[simp] theorem inUtf8Row_nil_right (row : List (Nat × Nat)) : InUtf8Row row [] ↔ row = [] :=
  List.forall₂_nil_right_iff

@[simp] theorem inUtf8Row_cons_cons (range : Nat × Nat) (row : List (Nat × Nat)) (b : Byte) (q : Bytes) :
    InUtf8Row (range :: row) (b :: q) ↔ (range.1 ≤ b.toNat ∧ b.toNat ≤ range.2) ∧ InUtf8Row row q :=
  List.forall₂_cons

/-- Bytes begin with a sequence of a row when the first byte is in the first range and the others begin with a sequence
of the other ranges. -/
theorem exists_inUtf8Row_cons_iff {range : Nat × Nat} {row : List (Nat × Nat)} {b : Byte} {bs rest : Bytes} :
    (∃ q, InUtf8Row (range :: row) q ∧ b :: bs = q ++ rest) ↔
      (range.1 ≤ b.toNat ∧ b.toNat ≤ range.2) ∧ ∃ q, InUtf8Row row q ∧ bs = q ++ rest := by
  constructor
  · rintro ⟨_ | ⟨a, q⟩, hq, heq⟩
    · simp at hq
    · obtain ⟨rfl, hrest⟩ := List.cons.inj heq
      obtain ⟨hb, hq⟩ := (inUtf8Row_cons_cons ..).mp hq
      exact ⟨hb, q, hq, hrest⟩
  · rintro ⟨hb, q, hq, rfl⟩
    exact ⟨b :: q, (inUtf8Row_cons_cons ..).mpr ⟨hb, hq⟩, rfl⟩

/-- Matching a row takes a sequence of the row off the front, and nothing else. -/
theorem utf8MatchRow_eq_some_iff {row : List (Nat × Nat)} {bs rest : Bytes} :
    utf8MatchRow row bs = some rest ↔ ∃ q, InUtf8Row row q ∧ bs = q ++ rest := by
  induction row generalizing bs with
  | nil => simp [utf8MatchRow]
  | cons range row ih =>
    cases bs with
    | nil => simp [utf8MatchRow]
    | cons b bs =>
      rw [exists_inUtf8Row_cons_iff, utf8MatchRow]
      split
      · next hb => rw [ih, and_iff_right hb]
      · next hb => simp [hb]

/-! ### The rows together -/

/-- No byte begins sequences of two rows: rows whose first ranges meet are one row. -/
theorem utf8Rows_firstRanges_disjoint :
    ∀ row ∈ utf8Rows, ∀ row' ∈ utf8Rows, ∀ range ∈ row.head?, ∀ range' ∈ row'.head?,
      range.1 ≤ range'.2 → range'.1 ≤ range.2 → row = row' := by
  decide

theorem nil_not_mem_utf8Rows : [] ∉ utf8Rows := by decide

/-- The first byte of a matching row's bytes is in the row's first range. -/
theorem utf8MatchRow_first {row : List (Nat × Nat)} {b : Byte} {bs rest : Bytes} (hrow : row ∈ utf8Rows)
    (h : utf8MatchRow row (b :: bs) = some rest) :
    ∃ range ∈ row.head?, range.1 ≤ b.toNat ∧ b.toNat ≤ range.2 := by
  obtain _ | ⟨range, row⟩ := row
  · exact absurd hrow nil_not_mem_utf8Rows
  · refine ⟨range, rfl, ?_⟩
    rw [utf8MatchRow] at h
    by_contra hb
    rw [if_neg hb] at h
    cases h

/-- At most one row matches, so the first that does is the only one. -/
theorem utf8MatchRow_unique {row row' : List (Nat × Nat)} {b : Byte} {bs rest rest' : Bytes} (hrow : row ∈ utf8Rows)
    (hrow' : row' ∈ utf8Rows) (h : utf8MatchRow row (b :: bs) = some rest)
    (h' : utf8MatchRow row' (b :: bs) = some rest') : rest = rest' := by
  obtain ⟨range, hrange, hlow, hhigh⟩ := utf8MatchRow_first hrow h
  obtain ⟨range', hrange', hlow', hhigh'⟩ := utf8MatchRow_first hrow' h'
  obtain rfl := utf8Rows_firstRanges_disjoint row hrow row' hrow' range hrange range' hrange' (hlow.trans hhigh')
    (hlow'.trans hhigh)
  exact Option.some.inj (h.symm.trans h')

theorem utf8Next_eq_some_iff_row {b : Byte} {bs rest : Bytes} :
    utf8Next (b :: bs) = some rest ↔ ∃ row ∈ utf8Rows, utf8MatchRow row (b :: bs) = some rest := by
  refine ⟨fun h => List.exists_of_findSome?_eq_some h, fun ⟨row, hrow, h⟩ => ?_⟩
  obtain ⟨rest', hnext⟩ : ∃ rest', utf8Next (b :: bs) = some rest' :=
    Option.isSome_iff_exists.mp (List.findSome?_isSome_iff.mpr ⟨row, hrow, by simp [h]⟩)
  obtain ⟨row', hrow', h'⟩ := List.exists_of_findSome?_eq_some hnext
  rw [hnext, utf8MatchRow_unique hrow hrow' h h']

/-- The sequences of R235 by their number of bytes are those of its nine rows. -/
theorem utf8Sequence_iff_row (q : Bytes) : utf8Sequence q ↔ ∃ row ∈ utf8Rows, InUtf8Row row q := by
  match q with
  | [] => simp [utf8Sequence, utf8Rows]
  | [a] => simp [utf8Sequence, utf8Rows]
  | [a, b] => simp [utf8Sequence, utf8Rows, continuation, and_assoc]
  | [a, b, c] =>
    simp only [utf8Sequence, continuation, BitVec.toNat_eq, BitVec.reduceToNat, utf8Rows, List.exists_mem_cons_iff,
      inUtf8Row_cons_cons, inUtf8Row_nil_left, inUtf8Row_nil_right, List.cons_ne_nil, List.not_mem_nil, and_false,
      and_true, false_or, or_false, false_and, exists_false]
    omega
  | [a, b, c, d] =>
    simp only [utf8Sequence, continuation, BitVec.toNat_eq, BitVec.reduceToNat, utf8Rows, List.exists_mem_cons_iff,
      inUtf8Row_cons_cons, inUtf8Row_nil_left, inUtf8Row_nil_right, List.cons_ne_nil, List.not_mem_nil, and_false,
      and_true, false_or, or_false, false_and, exists_false]
    omega
  | a :: b :: c :: d :: e :: q => simp [utf8Sequence, utf8Rows]

/-! ### The check -/

/-- One step of the check takes a sequence of the table off the front. -/
theorem utf8Next_eq_some_iff {b : Byte} {bs rest : Bytes} :
    utf8Next (b :: bs) = some rest ↔ ∃ q, utf8Sequence q ∧ b :: bs = q ++ rest := by
  simp only [utf8Next_eq_some_iff_row, utf8MatchRow_eq_some_iff, utf8Sequence_iff_row]
  constructor
  · rintro ⟨row, hrow, q, hq, heq⟩
    exact ⟨q, ⟨row, hrow, hq⟩, heq⟩
  · rintro ⟨q, ⟨row, hrow, hq⟩, heq⟩
    exact ⟨row, hrow, q, hq, heq⟩

theorem utf8Check_succ_cons {fuel : Nat} {b : Byte} {bs : Bytes} :
    utf8Check (fuel + 1) (b :: bs) = true ↔ ∃ rest, utf8Next (b :: bs) = some rest ∧ utf8Check fuel rest = true := by
  rw [utf8Check]
  split
  · next h => simp [h]
  · next h => simp [h]

/-- A sequence has a byte, so what follows it is shorter. -/
theorem length_lt_of_utf8Sequence {q bs rest : Bytes} (hq : utf8Sequence q) (heq : bs = q ++ rest) :
    rest.length < bs.length := by
  subst heq
  cases q with
  | nil => exact hq.elim
  | cons a q => simp

/-- With fuel for every byte, the check finds a split into sequences exactly when there is one. -/
theorem utf8Check_iff {fuel : Nat} {bs : Bytes} (hfuel : bs.length ≤ fuel) :
    utf8Check fuel bs = true ↔ ∃ seqs : List Bytes, bs = seqs.flatten ∧ ∀ q ∈ seqs, utf8Sequence q := by
  induction fuel generalizing bs with
  | zero =>
    obtain rfl := List.length_eq_zero_iff.mp (Nat.le_zero.mp hfuel)
    exact ⟨fun _ => ⟨[], rfl, nofun⟩, fun _ => rfl⟩
  | succ fuel ih =>
    obtain _ | ⟨b, bs⟩ := bs
    · exact ⟨fun _ => ⟨[], rfl, nofun⟩, fun _ => rfl⟩
    · simp only [utf8Check_succ_cons, utf8Next_eq_some_iff]
      have hrest {q rest : Bytes} (hq : utf8Sequence q) (heq : b :: bs = q ++ rest) : rest.length ≤ fuel :=
        Nat.le_of_lt_succ ((length_lt_of_utf8Sequence hq heq).trans_le hfuel)
      constructor
      · rintro ⟨rest, ⟨q, hq, heq⟩, hcheck⟩
        obtain ⟨seqs, rfl, hseqs⟩ := (ih (hrest hq heq)).mp hcheck
        exact ⟨q :: seqs, heq, List.forall_mem_cons.mpr ⟨hq, hseqs⟩⟩
      · rintro ⟨_ | ⟨q, seqs⟩, heq, hseqs⟩
        · cases heq
        · obtain ⟨hq, hseqs⟩ := List.forall_mem_cons.mp hseqs
          exact ⟨seqs.flatten, ⟨q, hq, heq⟩, (ih (hrest hq heq)).mpr ⟨seqs, rfl, hseqs⟩⟩

/-- Settles O9: the check has fuel for every byte. -/
theorem utf8IsTheTable : Obligations.Utf8IsTheTable :=
  fun _ => utf8Check_iff le_rfl

end Sys2Proof.Machine
end

section
/-! DECODE of a RequestFileTransfer that a check before the groups rejects: the mode, the length against the path, the
path's UTF-8 (R230, R231, R233, R234). -/

namespace Sys2Proof.Machine

open Stated

/-- Both directions run one decoder (R231). -/
theorem decodeKind_fileTransfer {sid : Byte} (h : sid = 0x38 ∨ sid = 0x78) :
    ∃ make, ∀ c l payload, decodeKind c l sid payload (kindOfSid sid) = decodeFileTransfer make c l payload := by
  obtain rfl | rfl := h
  · exact ⟨.fileTransferReq, fun _ _ _ => rfl⟩
  · exact ⟨.fileTransferRsp, fun _ _ _ => rfl⟩

/-! ### What each check rejects -/

theorem legalMode_eq_false_iff (mode : Byte) : legalMode mode = false ↔ mode.toNat < 1 ∨ 5 < mode.toNat := by
  simp only [legalMode, decide_eq_false_iff_not]
  omega

section
variable {c : Params} {l : Nat} {mode : Byte}

/-- The length is judged as R230 says for the groups of R232. -/
theorem checkFixedPart_rejects {α : Type} {n : Nat} (hmode : legalMode mode = true)
    (hl : if carriesSize c mode then l < n else l ≠ n) (bs : Bytes) (r : ReadResult α) :
    checkFixedPart c mode l n bs r = .fail (.payloadLengthTooShort l n) bs := by
  rw [checkFixedPart, hasSize_eq_carriesSize c hmode]
  split
  · next hs => exact checkMin_lt _ _ _ _ (by rwa [if_pos hs] at hl)
  · next hs => exact checkExact_ne _ _ _ _ (by rwa [if_neg hs] at hl)

theorem checkUtf8_rejects {α : Type} {path : Bytes} (h : validUtf8 path = false) (bs : Bytes) (r : ReadResult α) :
    checkUtf8 path bs r = .fail (.encodingError .none) bs := by
  rw [checkUtf8, h, if_neg Bool.false_ne_true]

/-- The decoder of R230 with the mode read. -/
theorem decodeFileTransfer_illegalMode (make : FileTransfer → Message) (hl : 3 ≤ l) (hmode : legalMode mode = false)
    (left : Bytes) : decodeFileTransfer make c l (mode :: left) = .fail (.encodingError .none) left := by
  rw [decodeFileTransfer, checkMin_le _ _ _ _ hl, readByte_cons, checkMode, hmode, if_neg Bool.false_ne_true]

/-- The decoder of R230 with a legal mode and the path length read: the checks that are left to do. -/
theorem decodeFileTransfer_pathLength (make : FileTransfer → Message) (hl : 3 ≤ l) (hmode : legalMode mode = true)
    (high low : Byte) (left : Bytes) :
    ∃ r : Bytes → Bytes → ReadResult Message, decodeFileTransfer make c l (mode :: high :: low :: left) =
      checkFixedPart c mode l (fixedPart c mode (high.toNat * 256 + low.toNat)) left
        (srcRead (high.toNat * 256 + low.toNat) left fun path rest => checkUtf8 path rest (r path rest)) := by
  have hpathLength : (BitVec.ofNat 16 (high.toNat * 256 + low.toNat)).toNat = high.toNat * 256 + low.toNat := by
    rw [BitVec.toNat_ofNat]
    omega
  rw [decodeFileTransfer, checkMin_le _ _ _ _ hl, readByte_cons, checkMode, if_pos hmode, readU16_cons, hpathLength]
  exact ⟨_, rfl⟩

end

/-! ### The DECODE that a check ends -/

/-- A fault of the decoder behind the bytes `head` ends the DECODE in either direction, with the SID and `head` taken. -/
theorem decodeFaults_of_fileTransfer {s : State} {plen : Len} {sid : Byte} {head tail : Bytes} {e : CodecError}
    {kind : ErrKind} {cause : Cause} {value expected : Option Nat} (hsid : sid = 0x38 ∨ sid = 0x78)
    (hstarts : decodeStarts s plen sid) (hrem : remaining s = sid :: (head ++ tail)) (hhead : head.length < plen.toNat)
    (hfail : ∀ make left, decodeFileTransfer make s.params (plen.toNat - 1) (head ++ left) = .fail e left)
    (he : e.RecordsAs kind cause value expected) :
    decodeFaults s plen kind cause value expected (1 + head.length) := by
  obtain ⟨make, hmake⟩ := decodeKind_fileTransfer hsid
  exact decodeFaults_of_fail hstarts hrem hhead (fun left => (hmake _ _ _).trans (hfail make left)) he

/-- Settles O34: the mode, then the length the path length implies, then the path. -/
theorem fileTransferFaults : Obligations.FileTransferFaults := by
  intro s plen sid mode more hsid hstarts hrem hplen
  have hthree : 3 ≤ plen.toNat - 1 := by omega
  refine ⟨fun hmode => ?_, ?_⟩
  · refine decodeFaults_of_fileTransfer (head := [mode]) hsid hstarts hrem
      (by rw [List.length_singleton]; omega) (fun make left => ?_) (recordsAs_encoding _)
    exact decodeFileTransfer_illegalMode make hthree ((legalMode_eq_false_iff mode).mpr hmode) left
  intro high low after hone hfive hmore pathLength n
  subst hmore
  have hmode : legalMode mode = true := by simp [legalMode, hone, hfive]
  have hn : fixedPart s.params mode pathLength = n := fixedPart_eq s.params hmode pathLength
  refine ⟨fun hl => ?_, fun hl hpath hutf8 => ?_⟩
  · refine decodeFaults_of_fileTransfer (head := [mode, high, low]) hsid hstarts hrem hplen (fun make left => ?_)
      (recordsAs_length _ _)
    obtain ⟨r, hr⟩ := decodeFileTransfer_pathLength (c := s.params) make hthree hmode high low left
    rw [← hn] at hl ⊢
    exact hr.trans (checkFixedPart_rejects hmode hl _ _)
  · have htake : (after.take pathLength).length = pathLength := List.length_take_of_le hpath
    have hdeclared : 3 + pathLength ≤ plen.toNat - 1 := by
      split at hl <;> omega
    have hhead : (mode :: high :: low :: after.take pathLength).length = 3 + pathLength := by
      rw [List.length_cons, List.length_cons, List.length_cons, htake]
      omega
    rw [show 4 + pathLength = 1 + (3 + pathLength) by omega, ← hhead]
    refine decodeFaults_of_fileTransfer (tail := after.drop pathLength) hsid hstarts (by simp [hrem]) (by omega)
      (fun make left => ?_) (recordsAs_encoding _)
    obtain ⟨r, hr⟩ := decodeFileTransfer_pathLength (c := s.params) make hthree hmode high low
      (after.take pathLength ++ left)
    rw [← hn] at hl
    exact hr.trans ((checkFixedPart_accepts hmode hl).trans
      ((srcRead_append _ _ _ _ htake).trans (checkUtf8_rejects hutf8 _ _)))

end Sys2Proof.Machine
end

section
/-! TransferData, and the two layouts that check nothing: TransferExit and Raw have only a trailing read, which faults
only with Io (R158, R240 to R243, R252, R262). -/

namespace Sys2Proof.Machine

open Stated

/-! ### TransferData completes -/

/-- The counter is one byte, the data every declared byte behind it (R240). -/
theorem decodeTransferDataReq_append {c : Params} (seq : Byte) (data rest : Bytes) (halloc : allocates c data.length) :
    decodeTransferDataReq c (1 + data.length) (seq :: (data ++ rest)) = .ok (.transferDataReq seq data) rest := by
  rw [decodeTransferDataReq, checkMin_le _ _ _ _ (Nat.le_add_right 1 _), readByte_cons, Nat.add_sub_cancel_left,
    readTrailing_within _ _ _ _ halloc, srcRead_append _ data rest _ rfl]

/-- The response is the counter alone (R241). -/
theorem decodeTransferDataRsp_cons (c : Params) (seq : Byte) (rest : Bytes) :
    decodeTransferDataRsp c 1 (seq :: rest) = .ok (.transferDataRsp seq) rest := by
  rw [decodeTransferDataRsp, checkExact_self, readByte_cons]

/-- Settles O15: the request reads the counter and the declared bytes behind it, the response the counter. -/
theorem transferDataDecodes : Obligations.TransferDataDecodes := by
  refine ⟨fun s seq data rest hcmd hl halloc => ?_, fun s seq rest hcmd hl => ?_⟩
  · have hdecode := decodeTransferDataReq_append seq data rest halloc
    rw [← hl] at hdecode
    rw [Nat.add_comm 1 data.length]
    exact exec_decode_append (bs := seq :: data) hcmd rfl nofun hdecode
  · have hdecode := decodeTransferDataRsp_cons s.params seq rest
    rw [show 1 = s.l.toNat by rw [hl]; rfl] at hdecode
    exact exec_decode_append (bs := [seq]) hcmd rfl nofun hdecode

/-! ### A decoder without checks -/

/-- No check of the decoder ends it: SrcRead running out of bytes is its only fault (R52, R262). -/
def ReadResult.OnlyRunsOut {α : Type} : ReadResult α → Prop
  | .fail _ _ => False
  | _ => True

theorem readTrailing_onlyRunsOut {α : Type} {c : Params} {n : Nat} {bs : Bytes} {k : Bytes → Bytes → ReadResult α}
    (hk : ∀ data rest, (k data rest).OnlyRunsOut) : (readTrailing c n bs k).OnlyRunsOut := by
  unfold readTrailing srcRead
  split
  · trivial
  · split
    · trivial
    · exact hk _ _

/-- `CheckMin(L, 0)` passes for every L (R98). -/
theorem decodeTransferExit_onlyRunsOut {c : Params} {l : Nat} {payload : Bytes} (make : Bytes → Message) :
    (decodeTransferExit make c l payload).OnlyRunsOut := by
  rw [decodeTransferExit, checkMin_zero]
  exact readTrailing_onlyRunsOut fun _ _ => trivial

theorem decodeRaw_onlyRunsOut {sid : Byte} {c : Params} {l : Nat} {payload : Bytes} :
    (decodeRaw sid c l payload).OnlyRunsOut :=
  readTrailing_onlyRunsOut fun _ _ => trivial

/-- The decoder of SID 0x37 and 0x77 is that of TransferExit, the decoder of an unmapped SID that of Raw (R175). -/
theorem decodeKind_onlyRunsOut {sid : Byte} (hsid : sid = 0x37 ∨ sid = 0x77 ∨ sid ∉ mappedSids) (c : Params) (l : Nat)
    (payload : Bytes) : (decodeKind c l sid payload (kindOfSid sid)).OnlyRunsOut := by
  obtain rfl | rfl | hunmapped := hsid
  · exact decodeTransferExit_onlyRunsOut .transferExitReq
  · exact decodeTransferExit_onlyRunsOut .transferExitRsp
  · rw [decodeKind_unmapped hunmapped]
    exact decodeRaw_onlyRunsOut

/-! ### The DECODE it ends -/

/-- A DECODE whose SID is there ends as the payload decoder of that SID does, in a state the phases have left. -/
theorem step_of_decodeStarts {s : State} {plen : Len} {sid : Byte} (hstarts : decodeStarts s plen sid) :
    ∃ payload u, step s =
      endDecode (decodeKind s.params (plen.toNat - 1) sid payload (kindOfSid sid)) payload u := by
  obtain ⟨rest, more, h, hrem, hz⟩ := hstarts
  have hl := len_sub_one hz
  obtain ⟨buf, hrun⟩ := step_decode_run h hz (more := more.take (plen - 1).toNat)
    (by rw [show s.src.remaining = sid :: more from hrem, ← hl, List.take_succ_cons])
  rw [decodePayload_instrOf, show (plen - 1).toNat = plen.toNat - 1 by omega] at hrun
  exact ⟨_, _, hrun⟩

/-- ERR is empty after a message, and after a read that ran out it holds Io with no cause (R52, R264). -/
theorem err_of_onlyRunsOut {r : ReadResult Message} {payload : Bytes} {u t : State} {e : ErrRecord}
    (hr : r.OnlyRunsOut) (ht : endDecode r payload u = .next t) (herr : t.err = some e) :
    e.kind = .io ∧ e.cause = .none := by
  obtain ⟨m, left, -, rfl⟩ | ⟨left, -, rfl⟩ | ⟨err, left, rfl, -⟩ := (endDecode_next_iff r payload u t).mp ht
  · cases herr
  · cases herr
    exact ⟨rfl, rfl⟩
  · exact hr.elim

/-- Settles O39: the decoders of these SIDs have no check that could end them. -/
theorem transferExitAndRawRaiseOnlyIo : Obligations.TransferExitAndRawRaiseOnlyIo := by
  intro s t plen sid e hstarts hsid ht herr
  obtain ⟨payload, u, hstep⟩ := step_of_decodeStarts hstarts
  exact err_of_onlyRunsOut (decodeKind_onlyRunsOut hsid _ _ payload) (hstep.symm.trans ht) herr

end Sys2Proof.Machine
end

section
/-! NegativeResponse completes (R250): the check of its exact length passes for two bytes, and neither byte is looked
at. -/

namespace Sys2Proof.Machine

open Stated

/-- The two bytes of the payload are the SID that faulted and the code, whatever they are (R250). -/
theorem decodeNegativeResponse_cons (c : Params) (faultedSid code : Byte) (rest : Bytes) :
    decodeNegativeResponse c 2 (faultedSid :: code :: rest) = .ok (.negativeResponse faultedSid code) rest := by
  rw [decodeNegativeResponse, checkExact_self, readByte_cons, readByte_cons]

/-- Settles O17: the decoder of the declared two bytes answers them and leaves `rest`, and the DECODE completes. -/
theorem negativeResponseDecodes : Obligations.NegativeResponseDecodes := by
  intro s faultedSid code rest hcmd hl
  have hdecode := decodeNegativeResponse_cons s.params faultedSid code rest
  rw [show 2 = s.l.toNat by rw [hl]; rfl] at hdecode
  exact exec_decode_append (bs := [faultedSid, code]) hcmd rfl nofun hdecode

end Sys2Proof.Machine
end

section
/-! The reset state meets the invariant between commands (R300): it is idle, no command has ended in it, and its empty
streams fit any capacity. -/

namespace Sys2Proof.Machine

/-- An empty sink is within every capacity (R55). -/
theorem withinCap_nil (c : Params) : WithinCap c [] := fun cap _ => Nat.zero_le cap

/-- After reset the streams are empty and the host has no sink to come. -/
theorem streamsFit_reset : State.reset.StreamsFit where
  sink := withinCap_nil _
  sinksToCome _ hmove := absurd hmove List.not_mem_nil
  source := Nat.le_refl 0

/-- Settles O56: reset is a state whose streams fit, with STATUS OK, ERR empty and no DECODE behind it. -/
theorem resetMeetsInvariant : Obligations.ResetMeetsInvariant := by
  obtain ⟨hcmd, -, herr, hok, hidle⟩ := resetState
  exact inv_of_ok streamsFit_reset hidle hok herr fun hdecode => nomatch hcmd.symm.trans hdecode

end Sys2Proof.Machine
end
